-- ==== Sys2Proof/Word.lean ====
section
/-! DEFINITION. The plain building blocks: bytes, fixed tables indexed by `Fin n`, and walks over a table. -/

namespace Sys2Proof

/-- One byte of a frame, of a text field or of the geometry store. -/
abbrev Byte := BitVec 8

/-- The entry of a table at an index. -/
def tget {α : Type} {n : Nat} (t : Vector α n) (i : Fin n) : α := t[i]

/-- The table with one entry replaced. -/
def tput {α : Type} {n : Nat} (t : Vector α n) (i : Fin n) (x : α) : Vector α n := t.set i x

/-- The table with one entry changed by a function. -/
def tupd {α : Type} {n : Nat} (t : Vector α n) (i : Fin n) (f : α → α) : Vector α n :=
  tput t i (f (tget t i))

/-- The table with every entry changed by a function. -/
def tmap {α β : Type} {n : Nat} (f : α → β) (t : Vector α n) : Vector β n :=
  ⟨⟨t.toList.map f⟩, by simp⟩

/-- The table whose entries are all equal. -/
def tall {α : Type} (n : Nat) (x : α) : Vector α n := Vector.replicate n x

/-- The indexes, in ascending order, of the entries that satisfy a test. -/
def idsWhere {α : Type} {n : Nat} (t : Vector α n) (p : α → Bool) : List (Fin n) :=
  ((List.finRange n).zip t.toList).filterMap fun ix => if p ix.2 then some ix.1 else none

/-- Run an action for each member of a list, in the list's order. -/
def forEach {ι σ : Type} (l : List ι) (f : ι → σ → σ) (s : σ) : σ :=
  l.foldl (fun s i => f i s) s

end Sys2Proof
end

