-- ==== Sys2Proof/Syntax.lean ====
section
/-! DEFINITION. The commands of the part: one constructor of `Instr` for each row of spec/opcode_table.json, and the
types of their operands. Numbers that a request may name out of range are naturals, and enumerated values that may be
none of the listed ones are options, because the rules refuse such values with BAD REQUEST. -/

namespace Sys2Proof

/-! ### Item numbers (00_scope.md, "Numbering") -/

abbrev SectionId := Fin 256
abbrev PointId := Fin 128
abbrev SignalId := Fin 128
abbrev DistrictId := Fin 8
abbrev RoadId := Fin 24
abbrev ResId := Fin 64
abbrev TrainId := Fin 48
abbrev AnnId := Fin 32
abbrev DepBoardId := Fin 4
abbrev ButtonId := Fin 8
abbrev SlotId := Fin 512
abbrev StationId := Fin 15
abbrev Channel := Fin 8
abbrev InputNo := Fin 16
abbrev LineNo := Fin 8
abbrev MoveNo := BitVec 8
/-- A field board, counted from 0: index `a` is the board whose field link address is `a + 1` (1-32). -/
abbrev BoardIdx := Fin 32
/-- The 64 bytes of one page of the geometry store. -/
abbrev Page := Vector Byte 64
/-- The four characters of a headcode. -/
abbrev Headcode := Vector Byte 4

/-! ### Operand values -/

inductive PointPos where | normal | reverse
  deriving DecidableEq, Repr

inductive DeckEnd where | a | b
  deriving DecidableEq, Repr

/-- The exit that SET ROUTE names; `other` stands for any value that is neither a signal nor BOUNDARY. -/
inductive ExitParam where | signal (n : Nat) | boundary | other
  deriving DecidableEq, Repr

/-- The two forms of READ ROUTES FROM SIGNAL (R51). -/
inductive RoutesForm where | list (signal start : Nat) | detail (signal slot : Nat)
  deriving DecidableEq, Repr

inductive TrainKind where | passenger | goods | light | shunt
  deriving DecidableEq, Repr

/-- The end that TURNTABLE MOVE names: A and B make the absolute form, FRONT and REAR the relative form (R125). -/
inductive MoveEnd where | a | b | front | rear
  deriving DecidableEq, Repr

/-- The changes that EDIT TRAIN may name (R105); `none` and `false` name no change. In `kind`, `some none` is a kind
that is not one of the four. In `loco`, 0 is its removal, and in `dest` an empty text is its removal (R100). -/
structure TrainEdit where
  headcode : Option Headcode
  kind : Option (Option TrainKind)
  loco : Option Nat
  dest : Option (List Byte)
  facing : Option DeckEnd
  clearPassed : Bool
  deriving DecidableEq, Repr

/-- The destination changes of EDIT ANNOUNCEMENT (R141): a text of its own, the return to the train's, or both (log 57). -/
inductive DestEdit where | own (text : List Byte) | train | both (text : List Byte)
  deriving DecidableEq, Repr

/-- The changes that EDIT ANNOUNCEMENT may name (R141). -/
structure AnnEdit where
  time : Option (List Byte)
  dest : Option DestEdit
  signal : Option Nat
  deriving DecidableEq, Repr

/-- What READ STORE names (R172). -/
inductive StoreRead where | bytes (addr len : Nat) | slot (n : Nat)
  deriving DecidableEq, Repr

inductive BoardType where | detector | point | signal | district | turntable | display | button
  deriving DecidableEq, Repr

inductive BoltInput where | isIn | isOut | between
  deriving DecidableEq, Repr

/-- The five inputs of the TURNTABLE board (R109). -/
structure TurntableInputs where
  bolt : BoltInput
  index : Bool
  count : BitVec 8
  datum : Bool
  fault : Bool
  deriving DecidableEq, Repr

/-- The two detection contacts of a POINT channel (R26). -/
structure Contacts where
  normalMade : Bool
  reverseMade : Bool
  deriving DecidableEq, Repr

/-- The whole input image of a board, which also says the board's type (R150, R151). -/
inductive BoardInputs where
  | detector (active : Vector Bool 16)
  | point (contacts : Vector Contacts 8)
  | signal
  | district (fault : Vector Bool 8)
  | turntable (t : TurntableInputs)
  | display
  | button (pressed : Vector Bool 8)
  deriving DecidableEq, Repr, Inhabited

/-- The type that an input image states. -/
def BoardInputs.type : BoardInputs → BoardType
  | .detector _ => .detector
  | .point _ => .point
  | .signal => .signal
  | .district _ => .district
  | .turntable _ => .turntable
  | .display => .display
  | .button _ => .button

/-- The commands. `st` is the station number in the frame and `tag` its tag; `attention` is the level of the attention
line when the exchange ends (R153). -/
inductive Instr where
  -- start-up, store and loader
  | chipReset (straps : BitVec 2)
  | layoutReset (st : StationId) (tag : Byte)
  | layoutResetCarriedOut
  | loadHeaderRead
  | loadConfigBlockRead
  | loadRouteSlotRead
  | storeAckTimeout
  | storePageWritten (readBack : Page)
  -- panel link
  | idle (st : StationId)
  | pollReplyTimeout
  | replyBytePauseTimeout
  | panelBadReply
  | stationRepollExpiry (st : StationId)
  | unknownRequest (st : StationId) (tag code : Byte)
  -- routes
  | cancelRoute (st : StationId) (tag : Byte) (res : Nat)
  | emergencyRelease (st : StationId) (tag : Byte) (res : Nat)
  | readReservation (st : StationId) (tag : Byte) (res : Nat)
  | readRoutesFromSignal (st : StationId) (tag : Byte) (form : RoutesForm)
  | retryRoute (st : StationId) (tag : Byte) (res : Nat)
  | setRoute (st : StationId) (tag : Byte) (entrance : Nat) (exit : ExitParam)
  | setThroughRoute (st : StationId) (tag : Byte) (signals : List Nat)
  -- track items
  | readDistrict (st : StationId) (tag : Byte) (n : Nat)
  | readPoint (st : StationId) (tag : Byte) (n : Nat)
  | readSection (st : StationId) (tag : Byte) (n : Nat)
  | readSignal (st : StationId) (tag : Byte) (n : Nat)
  | restoreDistrict (st : StationId) (tag : Byte) (n : Nat)
  | throwPoint (st : StationId) (tag : Byte) (n : Nat) (pos : Option PointPos)
  -- trains
  | deleteTrain (st : StationId) (tag : Byte) (handle : Nat)
  | editTrain (st : StationId) (tag : Byte) (handle : Nat) (edit : TrainEdit)
  | enterTrainOffLayout (st : StationId) (tag : Byte) (headcode : Headcode) (kind : Option TrainKind) (loco : Nat) (dest : List Byte)
  | findTrain (st : StationId) (tag : Byte) (headcode : Headcode)
  | interposeTrain (st : StationId) (tag : Byte) (sec : Nat) (headcode : Headcode) (kind : Option TrainKind) (loco : Nat) (dest : List Byte) (facing : Option DeckEnd)
  | moveTrain (st : StationId) (tag : Byte) (handle sec : Nat) (facing : Option DeckEnd)
  | readTrain (st : StationId) (tag : Byte) (handle : Nat)
  -- turntable
  | readTurntable (st : StationId) (tag : Byte)
  | turntableHome (st : StationId) (tag : Byte)
  | turntableMove (st : StationId) (tag : Byte) (road : Nat) (moveEnd : Option MoveEnd)
  | turntableReset (st : StationId) (tag : Byte)
  | withdrawMove (st : StationId) (tag : Byte) (number : Nat)
  -- displays and buttons
  | announce (st : StationId) (tag : Byte) (board train signal : Nat) (time : List Byte) (dest : Option (List Byte))
  | editAnnouncement (st : StationId) (tag : Byte) (n : Nat) (edit : AnnEdit)
  | readBoard (st : StationId) (tag : Byte) (board line : Nat)
  | readButtons (st : StationId) (tag : Byte)
  | setOpenDay (st : StationId) (tag : Byte) (value : Option Bool)
  | withdrawAnnouncement (st : StationId) (tag : Byte) (n : Nat)
  -- supervision
  | readEvents (st : StationId) (tag : Byte)
  | readStatus (st : StationId) (tag : Byte)
  | readStore (st : StationId) (tag : Byte) (what : StoreRead) (acked : Bool)
  | writeConfigBlock (st : StationId) (tag : Byte) (block page : Nat) (bytes : Page)
  | writeRouteSlot (st : StationId) (tag : Byte) (slot : Nat) (bytes : Page)
  -- field link
  | image (board : BoardIdx) (inputs : BoardInputs) (attention : Bool)
  | report (board : BoardIdx) (inputs : BoardInputs)
  | grantTimeout
  | lineTaken (board : BoardIdx) (line : LineNo) (attention : Bool)
  | fieldAnswerTimeout (attention : Bool)
  | fieldBadAnswer (attention : Bool)
  | boardRepollExpiry (board : BoardIdx)
  -- timers
  | clearDelayExpiry (sec : SectionId)
  | faultFilterExpiry (d : DistrictId)
  | retryTimerExpiry (d : DistrictId)
  | confirmWindowExpiry (d : DistrictId)
  | rechargeExpiry
  | throwTimerExpiry (p : PointId)
  | overlapTimerExpiry (r : ResId)
  | approachTimerExpiry (r : ResId)
  | emergencyTimerExpiry (r : ResId)
  | demonstrationHoldExpiry (r : ResId)
  | waitTimerExpiry
  | stageTimerExpiry
  | lingerExpiry (n : AnnId)
  | lampTimerExpiry (b : ButtonId)
  | cooldownExpiry (b : ButtonId)
  | chipResetAsserted
  | badReport
  deriving DecidableEq, Repr

end Sys2Proof
end

