-- ==== Sys2Proof/Config.lean ====
section
/-! DEFINITION. What an implementation fixes and the manual does not give: the byte layout of the config blocks, and the
free values. Every constant here is opaque: nothing in Lean can evaluate it or prove a value of it. -/

namespace Sys2Proof.Config

/-! ### The fields of a config block's entries (11, "Store contents")

The numbers are naturals: an entry may name an item that does not exist, and the loader then makes it absent (R175). -/

structure SectionEntry where
  district : Nat
  board : Nat
  input : Nat
  deriving DecidableEq, Repr, Inhabited

structure PointEntry where
  sec : Nat
  board : Nat
  channel : Nat
  deriving DecidableEq, Repr, Inhabited

structure SignalEntry where
  shunt : Bool
  board : Nat
  head : Nat
  berth : Nat
  firstBeyond : Nat
  deriving DecidableEq, Repr, Inhabited

structure DistrictEntry where
  board : Nat
  channel : Nat
  deriving DecidableEq, Repr, Inhabited

/-- One stored territory range; a range that breaks R164's conditions is taken as unused. -/
structure RangeEntry where
  base : Nat
  size : Nat
  deriving DecidableEq, Repr, Inhabited

structure StationEntry where
  enrolled : Bool
  signals1 : RangeEntry
  signals2 : RangeEntry
  points1 : RangeEntry
  points2 : RangeEntry
  boards : Vector Bool 4
  turntable : Bool
  deriving DecidableEq, Repr

structure TurntableEntry where
  board : Nat
  deck : Nat
  pit1 : Nat
  pit2 : Nat
  roads : Vector (Option Nat) 24
  deriving DecidableEq, Repr

/-- The kind of a button entry: a road and an end (`endB` picks B), or a slot. -/
inductive ButtonEntryKind where | turntable (road : Nat) (endB : Bool) | route (slot : Nat)
  deriving DecidableEq, Repr, Inhabited

/-- A button entry; the cooldown is in seconds. -/
structure ButtonEntry where
  kind : ButtonEntryKind
  cooldown : Nat
  board : Nat
  channel : Nat
  deriving DecidableEq, Repr, Inhabited

/-- The timing constants, in milliseconds. -/
structure TimingEntry where
  clearDelay : Nat
  rechargeGap : Nat
  throwTime : Nat
  overlapTime : Nat
  emergencyTime : Nat
  stepTime : Nat
  lingerTime : Nat
  deriving DecidableEq, Repr, Inhabited

/-! ### The layout of the blocks: what the bytes of a block's area say of entry `n` (log 4)

`none` is an entry marked unused. -/

opaque sectionEntry (area : List Byte) (n : Nat) : Option SectionEntry
opaque pointEntry (area : List Byte) (n : Nat) : Option PointEntry
opaque signalEntry (area : List Byte) (n : Nat) : Option SignalEntry
opaque districtEntry (area : List Byte) (n : Nat) : Option DistrictEntry
/-- Entry `n` of the boards block for the board whose address is `n + 1`. -/
opaque boardEntry (area : List Byte) (n : Nat) : Option BoardType
/-- Entry `n` of the boards block for departure board `n`; the inner option is "a DISPLAY board address, or none". -/
opaque departureEntry (area : List Byte) (n : Nat) : Option (Option Nat)
opaque stationEntry (area : List Byte) (n : Nat) : Option StationEntry
opaque turntableEntry (area : List Byte) : Option TurntableEntry
opaque buttonEntry (area : List Byte) (n : Nat) : Option ButtonEntry
opaque timingEntry (area : List Byte) : Option TimingEntry

/-! ### The bytes of the field link's inputs (log 11) -/

/-- What the payload of an IMAGE or a REPORT says: the board's type and its whole input image. -/
opaque inputsOf (payload : List Byte) : BoardInputs

/-! ### Free values -/

/-- The request code that the response to a REQUEST without a code echoes, by the request's tag (log 50). -/
opaque absentCode (tag : Byte) : Byte

/-- Draw `n`: whether the interlocking takes the set train call before the change to TRAVERSED (R135; log 9). -/
opaque setTrainFirst (n : Nat) : Bool

/-- Draw `n`: whether the text of its own stands, of an EDIT ANNOUNCEMENT that names it and the return to the train's text
(R141; log 57). -/
opaque ownTextStands (n : Nat) : Bool

/-- How far a write had reached when it was cut off, or when no acknowledgement came (R178; log 5). -/
inductive PageReached where | untouched | part | whole
  deriving DecidableEq, Repr, Inhabited

/-- Draw `n`: how far the write of the page had reached (log 5). -/
opaque pageReached (n : Nat) : PageReached

/-- Draw `n`: the byte that a page written in part holds at an offset (log 5). -/
opaque tornByte (n : Nat) (offset : Nat) : Byte

end Sys2Proof.Config
end

