-- ==== Sys2Proof/Machine/State.lean ====
section
/-! DEFINITION. The state of the part: every record of its thirteen blocks, the outputs it sends, the store's contents and
the queue of waiting commands. Plain data throughout. Each record's docstring cites the rule that names it. -/

namespace Sys2Proof.Machine

/-- A timer: stopped, or running with the milliseconds that remain (00, "Times"; log 1). -/
abbrev Timer := Option Nat

/-! ### Sections (R1) -/

inductive Occupancy where | clear | occupied | unknown
  deriving DecidableEq, Repr

/-- The role of a section lock: PATH k or OVERLAP k (R1). -/
inductive LockRole where | path (k : Nat) | overlap (k : Nat)
  deriving DecidableEq, Repr

structure SectionLock where
  res : ResId
  role : LockRole
  deriving DecidableEq, Repr

structure SectionCfg where
  district : DistrictId
  board : BoardIdx
  input : InputNo
  deriving DecidableEq, Repr

/-- One entry of the section table (R1). `cfg` is none while the section is not configured (absent). Clear pending is
yes exactly while `clearTimer` runs. -/
structure SectionRec where
  occ : Occupancy
  clearTimer : Timer
  lock : Option SectionLock
  cfg : Option SectionCfg
  deriving DecidableEq, Repr

/-! ### Power districts (R11) -/

inductive DistrictState where | off | normal | tripped | lockedOut | cut
  deriving DecidableEq, Repr

structure DistrictCfg where
  board : BoardIdx
  channel : Channel
  deriving DecidableEq, Repr

/-- One entry of the district table (R11). -/
structure DistrictRec where
  state : DistrictState
  retryCount : Nat
  retryTimer : Timer
  confirmWindow : Timer
  faultFilter : Timer
  cause : Option SignalId
  cfg : Option DistrictCfg
  deriving DecidableEq, Repr

/-! ### Signals (R20) -/

inductive SignalKind where | main | shunt
  deriving DecidableEq, Repr

inductive Aspect where | danger | caution | prelim | clear | proceed
  deriving DecidableEq, Repr

structure SignalCfg where
  kind : SignalKind
  board : BoardIdx
  head : Channel
  berth : SectionId
  firstBeyond : SectionId
  deriving DecidableEq, Repr

/-- One entry of the signal table (R20). -/
structure SignalRec where
  aspect : Aspect
  controlled : Bool
  entranceOf : Option ResId
  cfg : Option SignalCfg
  deriving DecidableEq, Repr

/-! ### Points and the throw queue (R25, R30) -/

inductive PointState where | normal | reverse | moving | failed | unknown
  deriving DecidableEq, Repr

inductive PointLock where | free | res (r : ResId) | disowned
  deriving DecidableEq, Repr

/-- The value of the two detection contacts (R26). -/
inductive Detection where | normal | reverse | none | both
  deriving DecidableEq, Repr

structure PointCfg where
  sec : SectionId
  board : BoardIdx
  channel : Channel
  deriving DecidableEq, Repr

/-- One entry of the point table (R25). The queued field is read from the throw queue. -/
structure PointRec where
  state : PointState
  target : Option PointPos
  throwOwner : Option ResId
  releaseAtEnd : Bool
  throwTimer : Timer
  lock : PointLock
  lastDetection : Option Detection
  cfg : Option PointCfg
  deriving DecidableEq, Repr

/-- One throw order (2.3): `owner` is none for an order placed by THROW POINT. -/
structure ThrowOrder where
  point : PointId
  pos : PointPos
  owner : Option ResId
  deriving DecidableEq, Repr

/-! ### Route definitions (R42, R43) -/

inductive RouteClass where | main | shunt
  deriving DecidableEq, Repr

inductive RouteExit where | signal (n : SignalId) | boundary
  deriving DecidableEq, Repr

inductive ReqEnd where | a | b | either
  deriving DecidableEq, Repr

structure PointReq where
  point : PointId
  pos : PointPos
  deriving DecidableEq, Repr

structure DeckReq where
  road : RoadId
  reqEnd : ReqEnd
  deriving DecidableEq, Repr

/-- A path element or an overlap element; an overlap element never carries a deck requirement (R43, check 6). -/
structure RouteElem where
  sec : SectionId
  point : Option PointReq
  deck : Option DeckReq
  deriving DecidableEq, Repr

/-- A route definition (R43); the approach release time is in seconds. -/
structure RouteDef where
  entrance : SignalId
  exit : RouteExit
  cls : RouteClass
  approachTime : Nat
  approach : List SectionId
  path : List RouteElem
  overlap : List RouteElem
  deriving DecidableEq, Repr

/-- Why a working slot is ABSENT, with the detail kept (R42). -/
inductive AbsentCause where | notLoaded | unused | damaged | invalid (check : Nat) | duplicate (of_ : SlotId)
  deriving DecidableEq, Repr

inductive SlotStatus where | defined (d : RouteDef) | absent (cause : AbsentCause)
  deriving DecidableEq, Repr

/-- One working slot of the route table (R42); `writing` is the writing mark. -/
structure SlotRec where
  status : SlotStatus
  writing : Bool
  deriving DecidableEq, Repr

/-! ### Reservations (R56) -/

/-- The owner of a reservation: a station, or the demonstration owner (owner number 15). -/
inductive Owner where | station (st : StationId) | demo
  deriving DecidableEq, Repr

inductive ResState where | setting | proved | opened | traversed | approachHeld | cancelling | releasing
  deriving DecidableEq, Repr

inductive FaultNote where | clean | point (p : PointId) | deck
  deriving DecidableEq, Repr

/-- A live reservation (R56). The deck hold is read from the turntable's deck lock (R62). -/
structure Reservation where
  slot : SlotId
  owner : Owner
  train : Option TrainId
  state : ResState
  hasBeenOpen : Bool
  settingCursor : Nat
  releaseCursor : Nat
  overlapReleased : Bool
  approachTimer : Timer
  overlapTimer : Timer
  emergencyTimer : Timer
  demoHold : Timer
  fault : FaultNote
  releaseOrigin : Option ResState
  deriving DecidableEq, Repr

/-! ### Trains (R91) -/

/-- A train record (R91). An empty destination text is an absent one. PLACED is having a head section. -/
structure Train where
  headcode : Headcode
  loco : Option Nat
  kind : TrainKind
  head : Option SectionId
  facing : Option DeckEnd
  dest : List Byte
  lost : Bool
  passed : Bool
  deriving DecidableEq, Repr

/-! ### The turntable (R108, R113) -/

inductive TtState where | unknown | homing | idle | unbolting | turning | bolting | failed
  deriving DecidableEq, Repr

inductive HomingPhase where | unbolt | seek | bolt
  deriving DecidableEq, Repr

inductive DeckLock where | free | promised (r : ResId) | held (r : ResId)
  deriving DecidableEq, Repr

/-- The kind of a move, with its requester (R113). -/
inductive MoveKind where
  | interlocking (r : Option ResId) | operator (st : StationId) | demo (b : ButtonId) | home
  deriving DecidableEq, Repr

/-- The relative form of an OPERATOR move (R113): the train, FRONT or REAR, and the road. -/
structure RelativeForm where
  train : TrainId
  front : Bool
  road : RoadId
  deriving DecidableEq, Repr

structure Move where
  number : MoveNo
  kind : MoveKind
  target : Option RoadId
  relative : Option RelativeForm
  waitTimer : Timer
  deriving DecidableEq, Repr

structure TurntableCfg where
  board : BoardIdx
  deck : SectionId
  pit1 : SectionId
  pit2 : SectionId
  roads : Vector (Option SectionId) 24
  deriving DecidableEq, Repr

/-- The turntable record (R108) and its move queue (R113). A position is a road number 0-23 that end A faces. -/
structure Turntable where
  state : TtState
  phase : Option HomingPhase
  position : Option RoadId
  lastPosition : Option RoadId
  deckLock : DeckLock
  current : Option Move
  stageTimer : Timer
  stepsCounted : Nat
  lastIndexCount : Option (BitVec 8)
  interrupted : Bool
  nextMoveNo : MoveNo
  cfg : Option TurntableCfg
  queue : List Move
  deriving DecidableEq, Repr

/-! ### Departure boards and buttons (R132, R144) -/

inductive AnnState where | waiting | ready | departed | cancelled
  deriving DecidableEq, Repr

inductive DestSource where | train | own
  deriving DecidableEq, Repr

/-- An announcement (R132); its position is its index in its board's list. -/
structure Announcement where
  board : DepBoardId
  train : Option TrainId
  headcode : Headcode
  signal : SignalId
  time : List Byte
  dest : List Byte
  source : DestSource
  state : AnnState
  linger : Timer
  deriving DecidableEq, Repr

/-- One rendered line of a board's image, with its send mark (R132). -/
structure BoardLine where
  text : List Byte
  mark : Bool
  deriving DecidableEq, Repr

/-- One departure board (R132): its DISPLAY board (none while absent), its list and its image. -/
structure DepBoard where
  addr : Option BoardIdx
  list : List AnnId
  lines : Vector BoardLine 8
  deriving DecidableEq, Repr

inductive ButtonState where | off | ready | busy | notNow | cooldown
  deriving DecidableEq, Repr

inductive ButtonKind where | turntable (road : RoadId) (deckEnd : DeckEnd) | route (slot : SlotId)
  deriving DecidableEq, Repr

inductive BusyWith where | move (n : MoveNo) | res (r : ResId)
  deriving DecidableEq, Repr

/-- The configuration of a button; the cooldown is in seconds (R144). -/
structure ButtonCfg where
  kind : ButtonKind
  cooldown : Nat
  board : BoardIdx
  channel : Channel
  deriving DecidableEq, Repr

/-- One entry of the button table (R144). `lastLevel` is `some true` for PRESSED. -/
structure ButtonRec where
  state : ButtonState
  busyWith : Option BusyWith
  lampTimer : Timer
  cooldownTimer : Timer
  lastLevel : Option Bool
  cfg : Option ButtonCfg
  deriving DecidableEq, Repr

/-! ### The field link (R150) -/

inductive BoardState where | unknown | present | failed
  deriving DecidableEq, Repr

inductive PointDrive where | idle | normal | reverse
  deriving DecidableEq, Repr

inductive TtDrive where | stop | clockwise | anticlockwise
  deriving DecidableEq, Repr

inductive BoltOutput where | isIn | isOut
  deriving DecidableEq, Repr

/-- The output image of a board (R150). It has the channels of every type; the REFRESH carries those of the board's own
type, and the others stay at their safe values (log 26). -/
structure OutputImage where
  drives : Vector PointDrive 8
  heads : Vector Aspect 8
  enables : Vector Bool 8
  ttDrive : TtDrive
  ttBolt : BoltOutput
  lamps : Vector ButtonState 8
  deriving DecidableEq, Repr

/-- One entry of the board table (R150). `type` is none while the board is not configured. `repollDue` says that the
re-poll timer has expired and the REFRESH it asks for has not been sent (R152). -/
structure BoardRec where
  type : Option BoardType
  state : BoardState
  missCount : Nat
  image : OutputImage
  mismatch : Bool
  repollTimer : Timer
  repollDue : Bool
  deriving DecidableEq, Repr

/-- What is outstanding on the field link (R151, R153, R154): `line` records the content sent. -/
inductive Exchange where
  | quiet | refresh (board : BoardIdx) | line (board : BoardIdx) (n : LineNo) (content : List Byte) | grant
  deriving DecidableEq, Repr

/-- The field link controller's own working state (R151 to R156). -/
structure FieldLink where
  outstanding : Exchange
  lastRefreshed : Option BoardIdx
  grantSent : Bool
  lineDue : List BoardIdx
  returned : List BoardIdx
  attention : Bool
  deriving DecidableEq, Repr

/-! ### The panel link (R160) -/

inductive EventFlag where
  | route | routeFailed | passedAtDanger | district | point | train | turntable | announce | store | territory
  | station | board
  deriving DecidableEq, Repr

/-- A territory range in use: its base and size (R164). -/
structure Range where
  base : Nat
  size : Nat
  deriving DecidableEq, Repr

/-- A station's territory (R164); an unused range is none. -/
structure Territory where
  signals1 : Option Range
  signals2 : Option Range
  points1 : Option Range
  points2 : Option Range
  boards : Vector Bool 4
  turntable : Bool
  deriving DecidableEq, Repr

/-- One entry of the station table (R160). `present` is the link state. `flags` is the set of event flags, one place for
each `EventFlag` in its order. -/
structure StationRec where
  enrolled : Bool
  present : Bool
  missCount : Nat
  repollTimer : Timer
  repollDue : Bool
  flags : Vector Bool 12
  territory : Territory
  deriving DecidableEq, Repr

inductive ResultCode where
  | done | accepted | notReady | badRequest | notPermitted | outOfTerritory | noSuchItem | noSuchRoute | conflict
  | occupied | locked | pointBusy | itemFailed | tableFull | queueFull | inUse | wrongState | busy
  deriving DecidableEq, Repr

/-- An item that a detail or the last refusal record names. -/
inductive ItemRef where
  | sec (n : SectionId) | point (n : PointId) | signal (n : SignalId) | district (n : DistrictId) | res (n : ResId)
  | train (n : TrainId) | ann (n : AnnId) | depBoard (n : DepBoardId) | road (n : RoadId) | slot (n : SlotId)
  | deck | turntable | store | throwQueue | moveQueue | reservationTable | trainTable | announcementTable
  | move (n : MoveNo)
  deriving DecidableEq, Repr

inductive LoadState where | loading | ready | noImage
  deriving DecidableEq, Repr

/-- A page that a store write concerns (R177). -/
inductive StorePage where | slot (n : SlotId) | config (block : Fin 9) (page : Nat) | header
  deriving DecidableEq, Repr

/-- The last store result (R177): DONE records the slot or the block, FAILED the page that failed. -/
inductive StoreResult where | done (what : StorePage) | failed (what : StorePage)
  deriving DecidableEq, Repr

/-- The last refusal record (R166). -/
structure Refused where
  st : StationId
  code : Byte
  item : ItemRef
  deriving DecidableEq, Repr

/-! ### Details of responses (each named by the rule of its request) -/

/-- READ SECTION (R9). -/
structure SectionView where
  occ : Occupancy
  clearPending : Bool
  lock : Option SectionLock
  cfg : SectionCfg
  held : Bool
  head : Option TrainId
  deriving DecidableEq, Repr

/-- READ DISTRICT (R19). -/
structure DistrictView where
  state : DistrictState
  retryCount : Nat
  retryTimer : Option Nat
  confirmOpen : Bool
  cfg : DistrictCfg
  cause : Option SignalId
  deriving DecidableEq, Repr

/-- READ SIGNAL (R24). -/
structure SignalView where
  aspect : Aspect
  controlled : Bool
  entranceOf : Option ResId
  cfg : SignalCfg
  deriving DecidableEq, Repr

/-- The throw of a MOVING point as READ POINT shows it (R40). -/
structure ThrowView where
  target : Option PointPos
  owner : Option ResId
  remaining : Option Nat
  releaseAtEnd : Bool
  deriving DecidableEq, Repr

/-- The queued order of a point as READ POINT shows it (R40); places count from 1. -/
structure QueuedView where
  pos : PointPos
  owner : Option ResId
  place : Nat
  deriving DecidableEq, Repr

/-- READ POINT (R40). -/
structure PointView where
  state : PointState
  throw_ : Option ThrowView
  lock : PointLock
  queued : Option QueuedView
  lastDetection : Option Detection
  cfg : PointCfg
  deriving DecidableEq, Repr

/-- One entry of the list form of READ ROUTES FROM SIGNAL (R51). -/
structure RouteView where
  slot : SlotId
  exit : RouteExit
  cls : RouteClass
  pathCount : Nat
  overlapCount : Nat
  writing : Bool
  usedBy : Option ResId
  deriving DecidableEq, Repr

/-- The deck hold of a reservation (R56). -/
inductive DeckHold where | free | promised | held
  deriving DecidableEq, Repr

/-- READ RESERVATION (R72). -/
structure ReservationView where
  slot : SlotId
  entrance : Option SignalId
  exit : Option RouteExit
  owner : Owner
  train : Option TrainId
  state : ResState
  hasBeenOpen : Bool
  releaseOrigin : Option ResState
  settingCursor : Nat
  requirementCount : Nat
  releaseCursor : Nat
  overlapReleased : Bool
  deckHold : DeckHold
  approachTimer : Option Nat
  overlapTimer : Option Nat
  emergencyTimer : Option Nat
  demoHold : Option Nat
  fault : FaultNote
  deriving DecidableEq, Repr

/-- One record as FIND TRAIN shows it (R106). -/
structure FoundTrain where
  handle : TrainId
  head : Option SectionId
  lost : Bool
  passed : Bool
  deriving DecidableEq, Repr

/-- A move as READ TURNTABLE shows it (R129): `remaining` is the stage timer's or the wait timer's remaining time. -/
structure MoveView where
  number : MoveNo
  kind : MoveKind
  target : Option RoadId
  relative : Option RelativeForm
  remaining : Option Nat
  deriving DecidableEq, Repr

/-- READ TURNTABLE (R129). -/
structure TurntableView where
  state : TtState
  phase : Option HomingPhase
  stepsCounted : Option Nat
  position : Option RoadId
  lastPosition : Option RoadId
  deckLock : DeckLock
  interrupted : Bool
  current : Option MoveView
  queue : List MoveView
  train : Option TrainId
  facing : Option DeckEnd
  deriving DecidableEq, Repr

/-- The announcement at a line as READ BOARD shows it (R143). -/
structure AnnView where
  number : AnnId
  train : Option TrainId
  signal : SignalId
  state : AnnState
  source : DestSource
  dest : List Byte
  linger : Option Nat
  deriving DecidableEq, Repr

/-- One button as READ BUTTONS shows it (R149). -/
structure ButtonView where
  kind : Option ButtonKind
  cooldown : Option Nat
  state : ButtonState
  busyWith : Option BusyWith
  lamp : Option Nat
  rest : Option Nat
  boardPresent : Bool
  deriving DecidableEq, Repr

/-- READ STATUS (R169). -/
structure StatusView where
  loadState : LoadState
  storeDamaged : Bool
  imageVersion : Option (BitVec 16)
  writing : Bool
  lastStoreResult : Option StoreResult
  definedSlots : Nat
  damagedSlots : Nat
  rejectedSlots : Nat
  linkRate : BitVec 2
  openDay : Bool
  liveReservations : Nat
  demoReservations : Nat
  trains : Nat
  announcements : Nat
  queuedThrows : Nat
  movingThrows : Nat
  turntable : TtState
  interrupted : Bool
  stations : List (StationId × Bool)
  boards : List (BoardIdx × BoardState)
  lastRefusal : Option Refused
  deriving DecidableEq, Repr

/-- The state found that a WRONG STATE refusal reports (10, "Request and response envelope"). The last three are the model's
own values, where the rule names no state found: `moveRunning` and `moveInterlocking` for WITHDRAW MOVE (R128; log 62),
`notOnDeck` for EDIT TRAIN (R105; log 52). -/
inductive FoundState where
  | res (x : ResState) | district (x : DistrictState) | turntable (x : TtState) | ann (x : AnnState)
  | moveRunning | moveInterlocking | notOnDeck
  deriving DecidableEq, Repr

/-- The detail of a response, as the owning rule gives it. -/
inductive Detail where
  | nothing
  | loadState (x : LoadState)
  | check (n : Nat) (other : Option SlotId)
  | item (x : ItemRef)
  | found (x : FoundState)
  | created (r : ResId) (st : ResState)
  | through (created : List ResId) (residue : Nat) (refusedLeg : Option Nat) (leg : Option ItemRef)
  | retried (throws : Nat) (move : Bool)
  | retired
  | held (seconds : Nat)
  | cancelling (throws : Nat) (move : Bool)
  | emergency (ms : Nat)
  | sec (v : SectionView)
  | district (v : DistrictView)
  | signal (v : SignalView)
  | point (v : PointView)
  | routes (length : Nat) (entries : List RouteView)
  | route (d : RouteDef) (writing : Bool) (usedBy : Option ResId)
  | reservation (v : ReservationView)
  | handle (t : TrainId)
  | cleared (n : Nat)
  | train (t : Train) (reservations : List ResId)
  | trains (found : List FoundTrain)
  | turntable (v : TurntableView)
  | move (number : MoveNo) (place : Option Nat)
  | announced (n : AnnId) (position : Nat)
  | annState (x : AnnState)
  | board (line : BoardLine) (present : Bool) (count : Nat) (ann : Option AnnView)
  | buttons (openDay : Bool) (views : List ButtonView)
  | openDayOff (moves reservations : Nat)
  | events (flags : List EventFlag)
  | status (v : StatusView)
  | bytes (b : List Byte)
  | slotBytes (b : List Byte) (status : SlotStatus)
  deriving DecidableEq, Repr

/-- A RESPONSE (R162). -/
structure Response where
  st : StationId
  tag : Byte
  code : Byte
  result : ResultCode
  pending : Bool
  detail : Detail
  deriving DecidableEq, Repr

/-- The panel link controller's own working state (R161, R162, R166). -/
structure PanelLink where
  polled : Option StationId
  lastPolled : Option StationId
  response : Option Response
  lastRefusal : Option Refused
  deriving DecidableEq, Repr

/-! ### The store controller and loader (R173 to R179) -/

/-- What the loader is reading; `failed` gathers the config blocks that failed (R175). -/
inductive Loader where
  | idle | header | block (k : Fin 9) (failed : List (Fin 9)) | slot (n : SlotId)
  deriving DecidableEq, Repr

/-- The timing constants in force, in milliseconds (R4, R32, R77, R86, R117, R137). -/
structure Timing where
  clearDelay : Nat
  rechargeGap : Nat
  throwTime : Nat
  overlapTime : Nat
  emergencyTime : Nat
  stepTime : Nat
  lingerTime : Nat
  deriving DecidableEq, Repr

/-- A store write in progress (R177): what the request named, the page being written now and its new bytes. -/
structure StoreWrite where
  what : StorePage
  page : StorePage
  bytes : List Byte
  deriving DecidableEq, Repr

/-! ### The whole machine -/

/-- The reasons the part stops. The manual gives none: every command has an effect, and a request that may not be
carried out is answered with a result code. So there is no constructor, and no step faults. -/
inductive Fault : Type
  deriving DecidableEq, Repr

/-- The reasons a command has no meaning in the model. -/
inductive Refusal where
  /-- Raised by an arm of `exec` whose command has not been given a meaning yet; no arm does so now. Safe. -/
  | notModelled (mnemonic : String)
  deriving DecidableEq, Repr

/-- The state of the part (INVENTORY.md, "State"). -/
structure State where
  sections : Vector SectionRec 256
  districts : Vector DistrictRec 8
  signals : Vector SignalRec 128
  points : Vector PointRec 128
  throwQueue : List ThrowOrder
  rechargeTimer : Timer
  slots : Vector SlotRec 512
  reservations : Vector (Option Reservation) 64
  trains : Vector (Option Train) 48
  tt : Turntable
  announcements : Vector (Option Announcement) 32
  depBoards : Vector DepBoard 4
  openDay : Bool
  buttons : Vector ButtonRec 8
  boards : Vector BoardRec 32
  fieldLink : FieldLink
  stations : Vector StationRec 15
  stationsRead : Bool
  panelLink : PanelLink
  loadState : LoadState
  linkRate : BitVec 2
  storeDamaged : Bool
  loader : Loader
  imageVersion : Option (BitVec 16)
  timing : Timing
  write : Option StoreWrite
  lastStoreResult : Option StoreResult
  layoutResetDue : Bool
  resetHeld : Bool
  store : List Host.Cell
  torn : List Nat
  freeCtr : Nat
  pending : List Instr
  deriving DecidableEq, Repr

/-! ### Chip reset values -/

/-- An entry of the section table after a chip or layout reset (R10). -/
def SectionRec.reset : SectionRec := ⟨.unknown, none, none, none⟩

/-- An entry of the district table after a chip or layout reset (R11). -/
def DistrictRec.reset : DistrictRec := ⟨.off, 0, none, none, none, none, none⟩

/-- An entry of the signal table after a chip or layout reset (R20). -/
def SignalRec.reset : SignalRec := ⟨.danger, false, none, none⟩

/-- An entry of the point table after a chip or layout reset (R41). -/
def PointRec.reset : PointRec := ⟨.unknown, none, none, false, none, .free, none, none⟩

/-- A working slot after a chip or layout reset (R42). -/
def SlotRec.reset : SlotRec := ⟨.absent .notLoaded, false⟩

/-- The turntable record after a chip reset (R131). -/
def Turntable.reset : Turntable :=
  { state := .unknown, phase := none, position := none, lastPosition := none, deckLock := .free, current := none,
    stageTimer := none, stepsCounted := 0, lastIndexCount := none, interrupted := false, nextMoveNo := 0, cfg := none,
    queue := [] }

/-- A line of 32 spaces (R132; the byte code of the space is log 6). -/
def blankLine : List Byte := List.replicate 32 0x20

/-- A departure board after a chip reset: absent, its list empty, its lines blank with every send mark set (R132). -/
def DepBoard.reset : DepBoard := ⟨none, [], tall 8 ⟨blankLine, true⟩⟩

/-- A button after a chip or layout reset (R144). -/
def ButtonRec.reset : ButtonRec := ⟨.off, none, none, none, none, none⟩

/-- The safe values of an output image (R158). -/
def OutputImage.safe : OutputImage :=
  ⟨tall 8 .idle, tall 8 .danger, tall 8 false, .stop, .isIn, tall 8 .off⟩

/-- A board entry after a chip reset (R158). -/
def BoardRec.reset : BoardRec := ⟨none, .unknown, 0, .safe, false, none, false⟩

/-- The field link controller after a chip reset: nothing outstanding (R158; log 29). -/
def FieldLink.reset : FieldLink := ⟨.quiet, none, false, [], [], false⟩

/-- The territory of a station that has none (R160). -/
def Territory.empty : Territory := ⟨none, none, none, none, tall 4 false, false⟩

/-- A station entry after a chip reset (R160). -/
def StationRec.reset : StationRec := ⟨false, true, 0, none, false, tall 12 false, .empty⟩

/-- The panel link after a chip reset: station 0 is being polled (R173, R161), no refusal recorded (R166). -/
def PanelLink.reset : PanelLink := ⟨some 0, some 0, none, none⟩

/-- The timing constants that the rules give where the block gives none (R4, R32, R77, R86, R117, R137). -/
def Timing.default : Timing := ⟨500, 300, 4000, 30000, 120000, 8000, 20000⟩

/-- The state right after a chip reset that latched the straps `straps`, over a store with the given contents (R173).
The queue is kept, since it lies outside the part. -/
def State.afterChipReset (straps : BitVec 2) (store : List Host.Cell) (torn : List Nat) (freeCtr : Nat)
    (pending : List Instr) : State :=
  { sections := tall 256 .reset, districts := tall 8 .reset, signals := tall 128 .reset, points := tall 128 .reset,
    throwQueue := [], rechargeTimer := none, slots := tall 512 .reset, reservations := tall 64 none,
    trains := tall 48 none, tt := .reset, announcements := tall 32 none, depBoards := tall 4 .reset, openDay := false,
    buttons := tall 8 .reset, boards := tall 32 .reset, fieldLink := .reset, stations := tall 15 .reset,
    stationsRead := false, panelLink := .reset, loadState := .loading, linkRate := straps, storeDamaged := false,
    loader := .header, imageVersion := none, timing := .default, write := none, lastStoreResult := none,
    layoutResetDue := false, resetHeld := false, store := store, torn := torn, freeCtr := freeCtr, pending := pending }

/-- The machine right after reset: a chip reset from power-on has ended (R173). The straps read 00 (log 2) and no byte of
the store is listed (log 3). -/
def State.reset : State := State.afterChipReset 0 [] [] 0 []

end Sys2Proof.Machine
end

