-- ==== Sys2Proof/Machine/Flags.lean ====
section
/-! DEFINITION. The event flags of the stations (10.3): who receives one, how one is set, read and cleared. -/

namespace Sys2Proof.Machine

/-- The supervisor is station 0 (00, "Terms"). -/
def supervisor : StationId := 0

/-- The place of a flag in a station's set of 12 flags (R160). -/
def EventFlag.idx : EventFlag → Fin 12
  | .route => 0
  | .routeFailed => 1
  | .passedAtDanger => 2
  | .district => 3
  | .point => 4
  | .train => 5
  | .turntable => 6
  | .announce => 7
  | .store => 8
  | .territory => 9
  | .station => 10
  | .board => 11

/-- The 12 flags in the order of the table in 10.3. -/
def EventFlag.all : List EventFlag :=
  [.route, .routeFailed, .passedAtDanger, .district, .point, .train, .turntable, .announce, .store, .territory,
    .station, .board]

/-- A station is enrolled when the block says so; station 0 always is, and until the block has been read, and throughout
NO_IMAGE, every station is treated as enrolled (R160). -/
def isEnrolled (s : State) (st : StationId) : Bool :=
  !s.stationsRead || st == supervisor || (tget s.stations st).enrolled

/-- Set a flag for a station; a setting for a station that is not enrolled is discarded (R167). -/
def setFlag (f : EventFlag) (st : StationId) (s : State) : State :=
  if isEnrolled s st then
    { s with stations := tupd s.stations st fun e => { e with flags := tput e.flags f.idx true } }
  else s

/-- Set a flag for each station of a list. -/
def setFlags (f : EventFlag) (l : List StationId) (s : State) : State := forEach l (setFlag f) s

/-- Set a flag for every station, 0 to 14. -/
def setFlagAll (f : EventFlag) (s : State) : State := setFlags f (List.finRange 15) s

/-- Set a flag for the owner of a reservation; a setting for owner 15 is discarded (R167). -/
def setOwnerFlag (f : EventFlag) (o : Owner) (s : State) : State :=
  match o with
  | .station st => setFlag f st s
  | .demo => s

/-- A station's flag. -/
def hasFlag (s : State) (st : StationId) (f : EventFlag) : Bool := tget (tget s.stations st).flags f.idx

/-- The set of a station's flags, in the order of 10.3. -/
def flagsOf (s : State) (st : StationId) : List EventFlag := EventFlag.all.filter (hasFlag s st)

/-- Whether any of a station's flags is set (the events-pending bit, R162). -/
def anyFlag (s : State) (st : StationId) : Bool := EventFlag.all.any (hasFlag s st)

/-- Clear every flag of a station (R168). -/
def clearFlags (st : StationId) (s : State) : State :=
  { s with stations := tupd s.stations st fun e => { e with flags := tall 12 false } }

end Sys2Proof.Machine
end

