-- ==== Sys2Proof/Machine/Ops.lean ====
section
/-! DEFINITION. The named operations over the records: the geometry store's bytes, timers, the section and point lock
calls, the channels of the output images, and the look-ups that several blocks share. -/

namespace Sys2Proof.Machine

/-! ### The bytes of the geometry store (10, "Store header and store map"; log 3) -/

/-- What a byte of the store reads as that nothing has written. -/
def erasedByte : Byte := 0xFF

/-- The number of bytes of the store. -/
def storeSize : Nat := 65536

/-- The number of bytes of a page. -/
def pageSize : Nat := 64

/-- Read one byte. -/
def memRead : List Host.Cell → Nat → Byte
  | [], _ => erasedByte
  | (b, v) :: rest, a => if a = b then v else memRead rest a

/-- Write one byte, keeping the canonical form: addresses rise, and no entry equals the erased byte. -/
def memWrite : List Host.Cell → Nat → Byte → List Host.Cell
  | [], a, v => if v = erasedByte then [] else [(a, v)]
  | (b, w) :: rest, a, v =>
    if a < b then (if v = erasedByte then (b, w) :: rest else (a, v) :: (b, w) :: rest)
    else if a = b then (if v = erasedByte then rest else (a, v) :: rest)
    else (b, w) :: memWrite rest a v

/-- Every address of the list lies above a bound, the addresses rise, and no entry equals the erased byte. -/
def Memory.above : Nat → List Host.Cell → Bool
  | _, [] => true
  | lo, (b, w) :: rest => decide (lo ≤ b) && decide (w ≠ erasedByte) && Memory.above (b + 1) rest

/-- The canonical form of the store's list of bytes. -/
def Memory.wf (m : List Host.Cell) : Bool := Memory.above 0 m

/-- Read `n` bytes from an address on. -/
def memReads (m : List Host.Cell) (a n : Nat) : List Byte := (List.range n).map fun i => memRead m (a + i)

/-- Write bytes from an address on. -/
def memWrites (m : List Host.Cell) (a : Nat) : List Byte → List Host.Cell
  | [] => m
  | b :: rest => memWrites (memWrite m a b) (a + 1) rest

/-! ### Timers -/

/-- One millisecond passes. A timer that has come to 0 waits there for its expiry to be taken (log 1). -/
def Timer.tick (t : Timer) : Timer := t.map (· - 1)

/-- The remaining time in units of 100 ms, rounded up (log 7). -/
def Timer.tenths (t : Timer) : Option Nat := t.map fun m => (m + 99) / 100

/-- Whether a timer is running. -/
def Timer.running (t : Timer) : Bool := t.isSome

/-! ### Sections (R8) -/

/-- A section's occupancy. -/
def occOf (s : State) (n : SectionId) : Occupancy := (tget s.sections n).occ

/-- A section's lock. -/
def lockOf (s : State) (n : SectionId) : Option SectionLock := (tget s.sections n).lock

/-- Whether the lock call succeeds: the section is configured, and its lock is none or names the same reservation. -/
def lockSectionOk (s : State) (n : SectionId) (r : ResId) : Bool :=
  (tget s.sections n).cfg.isSome && ((lockOf s n).map (·.res == r)).getD true

/-- The lock call (R8); a refused call leaves the lock unchanged. -/
def lockSection (n : SectionId) (r : ResId) (role : LockRole) (s : State) : State :=
  if lockSectionOk s n r then { s with sections := tupd s.sections n fun e => { e with lock := some ⟨r, role⟩ } } else s

/-- The release call (R8): a lock that names the reservation becomes none. -/
def releaseSection (n : SectionId) (r : ResId) (s : State) : State :=
  if (lockOf s n).map (·.res) = some r then { s with sections := tupd s.sections n fun e => { e with lock := none } } else s

/-- The sections whose lock names a reservation. -/
def sectionsLockedTo (s : State) (r : ResId) : List SectionId :=
  idsWhere s.sections fun e => e.lock.map (·.res) == some r

/-! ### Points (R29) -/

/-- Whether a point holds a queued order, and which (R25). -/
def queuedOrder (s : State) (p : PointId) : Option ThrowOrder := s.throwQueue.find? (·.point == p)

/-- Whether the lock call succeeds (R29). -/
def lockPointOk (s : State) (p : PointId) (r : ResId) : Bool :=
  let e := tget s.points p
  e.cfg.isSome && (e.lock == .free || e.lock == .res r) && !(e.state == .moving && e.throwOwner == none)
    && !((queuedOrder s p).map (·.owner) == some none)

/-- The lock call (R29); a refused call leaves the lock unchanged. -/
def lockPoint (p : PointId) (r : ResId) (s : State) : State :=
  if lockPointOk s p r then { s with points := tupd s.points p fun e => { e with lock := .res r } } else s

/-- The release call (R29): a lock that names the reservation becomes none; DISOWNED names none. -/
def releasePoint (p : PointId) (r : ResId) (s : State) : State :=
  if (tget s.points p).lock = .res r then { s with points := tupd s.points p fun e => { e with lock := .free } } else s

/-- The points in motion under a reservation's orders (R82). -/
def throwsInFlight (s : State) (r : ResId) : List PointId :=
  idsWhere s.points fun e => e.state == .moving && e.throwOwner == some r

/-- The count of throws in motion (R32, R33). -/
def throwsInMotion (s : State) : Nat := (idsWhere s.points fun e => e.state == .moving).length

/-- Whether a point's state is the named position (R44). -/
def PointState.is (x : PointState) : PointPos → Bool
  | .normal => x == .normal
  | .reverse => x == .reverse

/-- The point state of a position. -/
def posState : PointPos → PointState
  | .normal => .normal
  | .reverse => .reverse

/-- The drive of a position (R34). -/
def posDrive : PointPos → PointDrive
  | .normal => .normal
  | .reverse => .reverse

/-! ### Boards and their output images (R150) -/

/-- Whether a field board is PRESENT. -/
def boardPresent (s : State) (a : BoardIdx) : Bool := (tget s.boards a).state == .present

/-- Change a board's output image. -/
def setImage (a : BoardIdx) (f : OutputImage → OutputImage) (s : State) : State :=
  { s with boards := tupd s.boards a fun b => { b with image := f b.image } }

/-- Set the drive of a point channel (R34). -/
def setDrive (a : BoardIdx) (c : Channel) (d : PointDrive) (s : State) : State :=
  setImage a (fun i => { i with drives := tput i.drives c d }) s

/-- Set a signal head (R21). -/
def setHead (a : BoardIdx) (c : Channel) (x : Aspect) (s : State) : State :=
  setImage a (fun i => { i with heads := tput i.heads c x }) s

/-- Set a booster enable (R11). -/
def setEnable (a : BoardIdx) (c : Channel) (on : Bool) (s : State) : State :=
  setImage a (fun i => { i with enables := tput i.enables c on }) s

/-- Set a button's lamp (R144). -/
def setLamp (a : BoardIdx) (c : Channel) (x : ButtonState) (s : State) : State :=
  setImage a (fun i => { i with lamps := tput i.lamps c x }) s

/-! ### Holding (R2, R6) -/

/-- A configured section is held while its detector board is not PRESENT or its district is not NORMAL. -/
def cfgHeld (s : State) (c : SectionCfg) : Bool :=
  !(boardPresent s c.board && (tget s.districts c.district).state == .normal)

/-! ### Reservations and their definitions -/

/-- A reservation table entry: none is FREE. -/
def getRes (s : State) (r : ResId) : Option Reservation := tget s.reservations r

/-- Write a reservation table entry. -/
def setRes (r : ResId) (x : Option Reservation) (s : State) : State :=
  { s with reservations := tput s.reservations r x }

/-- Change a live reservation. -/
def updRes (r : ResId) (f : Reservation → Reservation) (s : State) : State :=
  { s with reservations := tupd s.reservations r (Option.map f) }

/-- The definition a slot holds, if it is DEFINED. -/
def slotDef (s : State) (n : SlotId) : Option RouteDef :=
  match (tget s.slots n).status with
  | .defined d => some d
  | .absent _ => none

/-- A live reservation with its definition (R49: it reads its definition by slot number). -/
def resDef (s : State) (r : ResId) : Option (Reservation × RouteDef) :=
  (getRes s r).bind fun v => (slotDef s v.slot).map fun d => (v, d)

/-- The reservations that are live. -/
def liveReservations (s : State) : List ResId := idsWhere s.reservations Option.isSome

/-- The live reservation that has a slot as its definition (R52). -/
def slotUser (s : State) (n : SlotId) : Option ResId :=
  (idsWhere s.reservations fun v => v.map (·.slot) == some n).head?

/-! ### Trains (R91) -/

/-- The head look-up: the train whose head section is the named one. -/
def headIn (s : State) (n : SectionId) : Option TrainId :=
  (idsWhere s.trains fun t => t.bind (·.head) == some n).head?

/-- Change a train record. -/
def updTrain (t : TrainId) (f : Train → Train) (s : State) : State :=
  { s with trains := tupd s.trains t (Option.map f) }

/-! ### Territory (R164) -/

/-- An item lies in a range in use. -/
def Range.holds (g : Option Range) (n : Nat) : Bool :=
  match g with
  | none => false
  | some x => decide (x.base ≤ n) && decide (n < x.base + x.size)

/-- A station's signal territory. -/
def Territory.signal (t : Territory) (n : SignalId) : Bool := Range.holds t.signals1 n.val || Range.holds t.signals2 n.val

/-- A station's point territory. -/
def Territory.point (t : Territory) (n : PointId) : Bool := Range.holds t.points1 n.val || Range.holds t.points2 n.val

/-- A station's board permission. -/
def Territory.board (t : Territory) (n : DepBoardId) : Bool := tget t.boards n

/-- A station's territory. -/
def territoryOf (s : State) (st : StationId) : Territory := (tget s.stations st).territory

/-- Whether a requester passes a territory check: the supervisor and the demonstration owner pass every one (R164). -/
def passesTerritory (s : State) (o : Owner) (p : Territory → Bool) : Bool :=
  match o with
  | .station st => st == supervisor || p (territoryOf s st)
  | .demo => true

/-- The stations whose territory satisfies a test. -/
def stationsWith (s : State) (p : Territory → Bool) : List StationId := idsWhere s.stations fun e => p e.territory

end Sys2Proof.Machine
end

