-- ==== Sys2Proof/Machine/Clock.lean ====
section
/-! DEFINITION. One millisecond: what a step does on an empty queue (log 1). Every running timer loses a millisecond, and
a timer that has come to 0 waits there for its expiry to be taken. -/

namespace Sys2Proof.Machine

/-- A district's timers. -/
def DistrictRec.tick (e : DistrictRec) : DistrictRec :=
  { e with retryTimer := e.retryTimer.tick, confirmWindow := e.confirmWindow.tick, faultFilter := e.faultFilter.tick }

/-- A reservation's timers. -/
def Reservation.tick (v : Reservation) : Reservation :=
  { v with
    approachTimer := v.approachTimer.tick, overlapTimer := v.overlapTimer.tick, emergencyTimer := v.emergencyTimer.tick
    demoHold := v.demoHold.tick }

/-- The turntable's timers. -/
def Turntable.tick (t : Turntable) : Turntable :=
  { t with stageTimer := t.stageTimer.tick, queue := t.queue.map fun m => { m with waitTimer := m.waitTimer.tick } }

/-- A button's timers. -/
def ButtonRec.tick (e : ButtonRec) : ButtonRec :=
  { e with lampTimer := e.lampTimer.tick, cooldownTimer := e.cooldownTimer.tick }

/-- Every timer of the part loses a millisecond. -/
def tickTimers (s : State) : State :=
  { s with
    sections := tmap (fun e => { e with clearTimer := e.clearTimer.tick }) s.sections
    districts := tmap DistrictRec.tick s.districts
    points := tmap (fun e => { e with throwTimer := e.throwTimer.tick }) s.points
    rechargeTimer := s.rechargeTimer.tick
    reservations := tmap (Option.map Reservation.tick) s.reservations
    tt := s.tt.tick
    announcements := tmap (Option.map fun a => { a with linger := a.linger.tick }) s.announcements
    buttons := tmap ButtonRec.tick s.buttons
    boards := tmap (fun b => { b with repollTimer := b.repollTimer.tick }) s.boards
    stations := tmap (fun e => { e with repollTimer := e.repollTimer.tick }) s.stations }

/-- A millisecond passes; nothing runs while RESET is held. -/
def passMillisecond (s : State) : State := if s.resetHeld then s else tickTimers s

end Sys2Proof.Machine
end

