-- ==== Sys2Proof/Machine/Answer.lean ====
section
/-! DEFINITION. What a request answers: a result code with its detail (10, "Request and response envelope"), the request
codes (R170 to R172), and the record of a territory refusal (R166). -/

namespace Sys2Proof.Machine

/-- A result code with its detail. -/
structure Reply where
  result : ResultCode
  detail : Detail
  deriving DecidableEq, Repr

/-- A result without a detail. -/
def plain (c : ResultCode) : Reply := ⟨c, .nothing⟩

/-- A result whose detail is an item. -/
def naming (c : ResultCode) (x : ItemRef) : Reply := ⟨c, .item x⟩

/-- A WRONG STATE refusal with the state found. -/
def wrongState (x : FoundState) : Reply := ⟨.wrongState, .found x⟩

/-- What the handling of a request gives: the reply and the state after its effects. -/
abbrev Handled := Reply × State

/-- A request that is refused, or that only reads: the state is unchanged. -/
def unchanged (s : State) (y : Reply) : Handled := (y, s)

/-- An OUT OF TERRITORY refusal replaces the last refusal record and sets the TERRITORY event (R166). -/
def territoryRefused (st : StationId) (code : Byte) (x : ItemRef) (s : State) : Handled :=
  (naming .outOfTerritory x,
    setFlag .territory supervisor { s with panelLink := { s.panelLink with lastRefusal := some ⟨st, code, x⟩ } })

/-! ### The request codes (R170 to R172) -/

def codeCancelRoute : Byte := 0x10
def codeEmergencyRelease : Byte := 0x11
def codeReadReservation : Byte := 0x12
def codeReadRoutes : Byte := 0x13
def codeRetryRoute : Byte := 0x14
def codeSetRoute : Byte := 0x15
def codeSetThroughRoute : Byte := 0x16
def codeReadDistrict : Byte := 0x20
def codeReadPoint : Byte := 0x21
def codeReadSection : Byte := 0x22
def codeReadSignal : Byte := 0x23
def codeRestoreDistrict : Byte := 0x24
def codeThrowPoint : Byte := 0x25
def codeDeleteTrain : Byte := 0x30
def codeEditTrain : Byte := 0x31
def codeEnterTrain : Byte := 0x32
def codeFindTrain : Byte := 0x33
def codeInterposeTrain : Byte := 0x34
def codeMoveTrain : Byte := 0x35
def codeReadTrain : Byte := 0x36
def codeReadTurntable : Byte := 0x40
def codeTurntableHome : Byte := 0x41
def codeTurntableMove : Byte := 0x42
def codeTurntableReset : Byte := 0x43
def codeWithdrawMove : Byte := 0x44
def codeAnnounce : Byte := 0x50
def codeEditAnnouncement : Byte := 0x51
def codeReadBoard : Byte := 0x52
def codeReadButtons : Byte := 0x53
def codeSetOpenDay : Byte := 0x54
def codeWithdrawAnnouncement : Byte := 0x55
def codeLayoutReset : Byte := 0x60
def codeReadEvents : Byte := 0x61
def codeReadStatus : Byte := 0x62
def codeReadStore : Byte := 0x63
def codeWriteConfigBlock : Byte := 0x64
def codeWriteRouteSlot : Byte := 0x65

end Sys2Proof.Machine
end

