-- ==== Sys2Proof/Machine/Operands.lean ====
section
/-! DEFINITION. Reading the operands that are bytes: the CRC, two-byte numbers, text as shown, and the route slot format
with its form checks (R46 and 10, "Formats"). -/

namespace Sys2Proof.Machine

/-! ### CRC and numbers (10, "Formats") -/

/-- One shift of the CRC register: generator 0x1021, no reflection. -/
def crcShift (c : BitVec 16) : BitVec 16 := if c.msb then (c <<< 1) ^^^ 0x1021#16 else c <<< 1

/-- The CRC register after one byte. -/
def crcByte (c : BitVec 16) (b : Byte) : BitVec 16 :=
  let x := c ^^^ ((b.setWidth 16) <<< 8)
  crcShift (crcShift (crcShift (crcShift (crcShift (crcShift (crcShift (crcShift x)))))))

/-- The CRC-16 of bytes: started from 0xFFFF, no final inversion. -/
def crc16 (bs : List Byte) : BitVec 16 := bs.foldl crcByte 0xFFFF#16

/-- The byte at an offset. -/
def byteAt (bs : List Byte) (i : Nat) : Byte := bs.getD i 0

/-- The number at an offset. -/
def natAt (bs : List Byte) (i : Nat) : Nat := (byteAt bs i).toNat

/-- The two-byte number at an offset, high byte first. -/
def wordAt (bs : List Byte) (i : Nat) : BitVec 16 := byteAt bs i ++ byteAt bs (i + 1)

/-- The two bytes of a number, high byte first. -/
def wordBytes (w : BitVec 16) : List Byte := [w.extractLsb' 8 8, w.extractLsb' 0 8]

/-! ### Text (00, "Text"; log 6) -/

/-- The byte code of the space. -/
def space : Byte := 0x20

/-- A byte of a text field as shown: one outside the text set is shown as a space. -/
def shown (b : Byte) : Byte :=
  let n := b.toNat
  if n = 0x20 ∨ (0x41 ≤ n ∧ n ≤ 0x5A) ∨ (0x30 ≤ n ∧ n ≤ 0x39) ∨ n = 0x3A ∨ n = 0x2E ∨ n = 0x2D then b else space

/-- The first `n` characters of a text, padded with spaces. -/
def fit (n : Nat) (t : List Byte) : List Byte := (t ++ List.replicate n space).take n

/-! ### Ids out of request numbers -/

/-- A number as an item number, if it is in range. -/
def toId (n k : Nat) : Option (Fin n) := if h : k < n then some ⟨k, h⟩ else none

/-! ### Positions of the deck (00, "Positions and ends"; R44) -/

/-- The road that end B faces when end A faces this one: 12 further round. -/
def opposite (j : RoadId) : RoadId := ⟨(j.val + 12) % 24, by omega⟩

/-- The deck position at which the named end faces the road (R44, R125, R146). -/
def endPosition (j : RoadId) : DeckEnd → RoadId
  | .a => j
  | .b => opposite j

/-- Whether a deck requirement accepts a position (R44). -/
def DeckReq.accepts (q : DeckReq) (p : RoadId) : Bool :=
  match q.reqEnd with
  | .a => p == q.road
  | .b => p == opposite q.road
  | .either => p == q.road || p == opposite q.road

/-- The clockwise steps from one position to another (R117). -/
def clockwiseSteps (p q : RoadId) : Nat := (q.val + 24 - p.val) % 24

/-- The steps by the shorter way. -/
def shorterSteps (p q : RoadId) : Nat := min (clockwiseSteps p q) (clockwiseSteps q p)

/-- The target chosen for a needed alignment (R62): for EITHER the accepted position that is fewer steps away, end A
when both are 6 steps away. -/
def DeckReq.target (q : DeckReq) (p : RoadId) : RoadId :=
  match q.reqEnd with
  | .a => q.road
  | .b => opposite q.road
  | .either => if shorterSteps p q.road ≤ shorterSteps p (opposite q.road) then q.road else opposite q.road

/-- The position `d` steps on, clockwise or anticlockwise (R117). -/
def stepBy (p : RoadId) (clockwise : Bool) (d : Nat) : RoadId :=
  if clockwise then ⟨(p.val + d) % 24, by omega⟩ else ⟨(p.val + 24 - d % 24) % 24, by omega⟩

/-! ### The route slot format (10, "Route slot") and the form checks (R46) -/

/-- The marker says that the slot is unused. -/
def slotUnused (bs : List Byte) : Bool := natAt bs 0 == 0xFF

/-- The slot's CRC matches. -/
def slotCrcOk (bs : List Byte) : Bool := crc16 (bs.take 62) == wordAt bs 62

/-- A point requirement byte: 0xFF means none; bits 6-0 hold the point, bit 7 the position. -/
def pointReqOf (b : Byte) : Option PointReq :=
  if b = 0xFF then none
  else some ⟨⟨b.toNat % 128, by omega⟩, if b.msb then .reverse else .normal⟩

/-- A deck requirement byte: 0xFF means none; the outer `none` is a byte that fails form check 6. -/
def deckReqOf (b : Byte) : Option (Option DeckReq) :=
  if b = 0xFF then some none
  else if b.msb then none
  else
    match toId 24 (b.toNat % 32) with
    | none => none
    | some j =>
      match b.toNat / 32 with
      | 0 => some (some ⟨j, .a⟩)
      | 1 => some (some ⟨j, .b⟩)
      | 2 => some (some ⟨j, .either⟩)
      | _ => none

/-- A section number byte. -/
def sectionAt (bs : List Byte) (i : Nat) : SectionId := ⟨natAt bs i, (byteAt bs i).isLt⟩

/-- Path element `k`; none if its deck requirement byte fails form check 6. -/
def pathElemAt (bs : List Byte) (k : Nat) : Option RouteElem :=
  (deckReqOf (byteAt bs (14 + 3 * k))).map fun q => ⟨sectionAt bs (12 + 3 * k), pointReqOf (byteAt bs (13 + 3 * k)), q⟩

/-- Overlap element `k`. -/
def overlapElemAt (bs : List Byte) (k : Nat) : RouteElem :=
  ⟨sectionAt bs (48 + 2 * k), pointReqOf (byteAt bs (49 + 2 * k)), none⟩

/-- The exit of a stored slot, if it passes form check 2. -/
def exitOf (bs : List Byte) : Option RouteExit :=
  match natAt bs 2 with
  | 0 => (toId 128 (natAt bs 3)).bind fun x => if x.val = natAt bs 1 then none else some (.signal x)
  | 1 => some .boundary
  | _ => none

/-- The class of a stored slot, if it passes form check 3. -/
def classOf (bs : List Byte) : Option RouteClass :=
  match natAt bs 4 with
  | 0 => some .main
  | 1 => some .shunt
  | _ => none

/-- Whether a list holds no value twice. -/
def noRepeats {α : Type} [DecidableEq α] : List α → Bool
  | [] => true
  | x :: rest => !(rest.contains x) && noRepeats rest

/-- The points that a list of elements requires, in order. -/
def elemPoints (es : List RouteElem) : List PointId := es.filterMap fun e => e.point.map (·.point)

/-- The form checks (R46): the number of the first that fails, or the definition. -/
def formCheck (bs : List Byte) : Except Nat RouteDef :=
  match toId 128 (natAt bs 1) with
  | none => .error 1
  | some entrance =>
  match exitOf bs with
  | none => .error 2
  | some exit =>
  match classOf bs with
  | none => .error 3
  | some cls =>
  let na := natAt bs 6
  let np := natAt bs 7
  let no := natAt bs 8
  if ¬ (na ≤ 3 ∧ 1 ≤ np ∧ np ≤ 12 ∧ no ≤ 4) then .error 4
  else if (cls = .shunt ∨ exit = .boundary) ∧ no ≠ 0 then .error 5
  else
  match (List.range np).mapM (pathElemAt bs) with
  | none => .error 6
  | some path =>
  let overlap := (List.range no).map (overlapElemAt bs)
  let approach := (List.range na).map fun k => sectionAt bs (9 + k)
  if noRepeats (approach ++ path.map (·.sec) ++ overlap.map (·.sec)) = false then .error 7
  else if noRepeats (elemPoints path ++ elemPoints overlap) = false then .error 8
  else .ok ⟨entrance, exit, cls, natAt bs 5, approach, path, overlap⟩

end Sys2Proof.Machine
end

