-- ==== Sys2Proof/Machine/Signals.lean ====
section
/-! DEFINITION. The signal controller: deriving aspects and the cascade (R21, R22). -/

namespace Sys2Proof.Machine

/-- The definition of the OPEN reservation from a signal, if there is one. -/
def openRouteFrom (s : State) (sg : SignalId) : Option RouteDef :=
  ((tget s.signals sg).entranceOf.bind (resDef s)).bind fun vd => if vd.1.state = .opened then some vd.2 else none

/-- The aspect that a MAIN signal shows for its OPEN route, by the route's exit (R21). -/
def aspectForExit (s : State) : RouteExit → Aspect
  | .boundary => .caution
  | .signal x =>
    match (tget s.signals x).cfg with
    | none => .caution
    | some c => match c.kind with
      | .shunt => .caution
      | .main => match (tget s.signals x).aspect with
        | .danger => .caution
        | .caution => .prelim
        | .prelim => .clear
        | .clear => .clear
        | .proceed => .caution

/-- The derived aspect of a signal (R21); an absent signal has aspect DANGER (R20). -/
def deriveAspect (s : State) (sg : SignalId) : Aspect :=
  match (tget s.signals sg).cfg with
  | none => .danger
  | some c =>
    if (tget s.signals sg).controlled then
      match openRouteFrom s sg with
      | none => .danger
      | some d => match c.kind with
        | .shunt => .proceed
        | .main => aspectForExit s d.exit
    else .danger

/-- Record an aspect and set the head in the board's output image. -/
def recordAspect (sg : SignalId) (x : Aspect) (s : State) : State :=
  let s1 := { s with signals := tupd s.signals sg fun e => { e with aspect := x } }
  match (tget s.signals sg).cfg with
  | none => s1
  | some c => setHead c.board c.head x s1

/-- The signals whose OPEN route exits at a signal (R22). -/
def signalsBehind (s : State) (sg : SignalId) : List SignalId :=
  (List.finRange 128).filter fun x =>
    match openRouteFrom s x with
    | some d => d.exit == .signal sg
    | none => false

/-- The most derivations one cascade can need: each of the 128 signals changes at most 3 times, and asks for the
derivation of the signals behind it. -/
def cascadeFuel : Nat := 1024

/-- Derive the waiting signals in turn; each that changes asks for the signals behind it (R21, R22). -/
def cascade : Nat → List SignalId → State → State
  | 0, _, s => s
  | _ + 1, [], s => s
  | n + 1, sg :: rest, s =>
    if deriveAspect s sg = (tget s.signals sg).aspect then cascade n rest s
    else
      let s1 := recordAspect sg (deriveAspect s sg) s
      cascade n (rest ++ signalsBehind s1 sg) s1

/-- Derive a signal's aspect, with the cascade (R21, R22). -/
def deriveSignal (sg : SignalId) (s : State) : State := cascade cascadeFuel [sg] s

end Sys2Proof.Machine
end

