-- ==== Sys2Proof/Machine/Display.lean ====
section
/-! DEFINITION. The display unit's own operations: rendering lines, the condition of an announcement, following the
reports of the interlocking and the train describer, and retirement (R132 to R138). -/

namespace Sys2Proof.Machine

/-! ### Lines (R138) -/

/-- The characters of a word given by their codes (log 6). -/
def codes (l : List Nat) : List Byte := l.map (BitVec.ofNat 8)

/-- The six status characters: blank, `READY `, `DEPART` or `CANCEL`. -/
def statusWord : AnnState → List Byte
  | .waiting => List.replicate 6 space
  | .ready => codes [0x52, 0x45, 0x41, 0x44, 0x59, 0x20]
  | .departed => codes [0x44, 0x45, 0x50, 0x41, 0x52, 0x54]
  | .cancelled => codes [0x43, 0x41, 0x4E, 0x43, 0x45, 0x4C]

/-- The rendered line of an announcement (R138). -/
def annLine (a : Announcement) : List Byte :=
  (fit 5 a.time ++ [space] ++ a.headcode.toList ++ [space] ++ fit 14 a.dest ++ [space] ++ statusWord a.state).map shown

/-- The line that a board's image should show at a place: the announcement there, or 32 spaces (R138). -/
def lineContent (s : State) (b : DepBoardId) (p : LineNo) : List Byte :=
  match (tget s.depBoards b).list[p.val]? with
  | none => blankLine
  | some n => match tget s.announcements n with
    | none => blankLine
    | some a => annLine a

/-- Render a line afresh: a new line that differs from the image's replaces it and sets its send mark (R138). -/
def renderLine (b : DepBoardId) (p : LineNo) (s : State) : State :=
  let t := lineContent s b p
  if (tget (tget s.depBoards b).lines p).text = t then s
  else { s with depBoards := tupd s.depBoards b fun e => { e with lines := tput e.lines p ⟨t, true⟩ } }

/-- Render the lines of a board from a place on. -/
def renderFrom (b : DepBoardId) (k : Nat) (s : State) : State :=
  forEach ((List.finRange 8).filter fun p => decide (k ≤ p.val)) (renderLine b) s

/-- The position of an announcement in its board's list (R132). -/
def annPosition (s : State) (b : DepBoardId) (n : AnnId) : Nat := (tget s.depBoards b).list.idxOf n

/-- Render the line of one announcement. -/
def renderAnn (b : DepBoardId) (n : AnnId) (s : State) : State :=
  match toId 8 (annPosition s b n) with
  | some p => renderLine b p s
  | none => s

/-- The ANNOUNCE event for a board: the supervisor and the stations with permission for it (R137). -/
def announceEvent (b : DepBoardId) (s : State) : State :=
  setFlags .announce (supervisor :: stationsWith s (·.board b)) s

/-- Write an announcement, render its line and set the ANNOUNCE event. -/
def putAnn (n : AnnId) (a : Announcement) (s : State) : State :=
  announceEvent a.board (renderAnn a.board n { s with announcements := tput s.announcements n (some a) })

/-! ### The condition (R134) and departure (R135) -/

/-- The condition of an announcement: a live reservation in PROVED or OPEN has its platform signal as entrance and its
train as train. -/
def annCondition (s : State) (signal : SignalId) (train : Option TrainId) : Bool :=
  match (tget s.signals signal).entranceOf.bind (getRes s), train with
  | some v, some t => (v.state == .proved || v.state == .opened) && v.train == some t
  | _, _ => false

/-- The announcement after its condition is tested; `depart` is the train whose announcements R135 makes DEPARTED. -/
def annTested (s : State) (depart : Option TrainId) (a : Announcement) : Announcement :=
  let cond := annCondition s a.signal a.train
  let leaves := depart.isSome && a.train == depart
  match a.state with
  | .waiting | .ready =>
    if cond then { a with state := .ready }
    else if leaves then { a with state := .departed, linger := some s.timing.lingerTime }
    else { a with state := .waiting }
  | .departed => if cond then { a with state := .ready, linger := none } else a
  | .cancelled => a

/-- Test one announcement; a change of state is rendered and sets the ANNOUNCE event. -/
def testAnn (depart : Option TrainId) (n : AnnId) (s : State) : State :=
  match tget s.announcements n with
  | none => s
  | some a => if (annTested s depart a).state = a.state then s else putAnn n (annTested s depart a) s

/-- The announcements that name a platform signal. -/
def annsFor (s : State) (sg : SignalId) : List AnnId :=
  idsWhere s.announcements fun a => a.map (·.signal) == some sg

/-- The display unit takes a reservation report for a platform signal (R134, R135). -/
def reservationReport (sg : SignalId) (depart : Option TrainId) (s : State) : State :=
  forEach (annsFor s sg) (testAnn depart) s

/-! ### Reports of the train describer (R136) -/

/-- The announcements for a train. -/
def annsOf (s : State) (t : TrainId) : List AnnId :=
  idsWhere s.announcements fun a => a.bind (·.train) == some t

/-- The train of the announcements is deleted: each not yet CANCELLED goes CANCELLED and lingers. -/
def annTrainDeleted (t : TrainId) (s : State) : State :=
  forEach (annsOf s t) (fun n s =>
    match tget s.announcements n with
    | none => s
    | some a =>
      if a.state = .cancelled then s
      else putAnn n { a with state := .cancelled, train := none, linger := some s.timing.lingerTime } s) s

/-- The train of the announcements has a new headcode. -/
def annHeadcode (t : TrainId) (h : Headcode) (s : State) : State :=
  forEach (annsOf s t) (fun n s =>
    match tget s.announcements n with
    | none => s
    | some a => putAnn n { a with headcode := h } s) s

/-- The train of the announcements has a new destination text; those with source OWN keep theirs. -/
def annDestination (t : TrainId) (d : List Byte) (s : State) : State :=
  forEach (annsOf s t) (fun n s =>
    match tget s.announcements n with
    | none => s
    | some a => if a.source = .own then s else putAnn n { a with dest := d } s) s

/-! ### Retirement (R133) -/

/-- Retire an announcement: it leaves its board's list, the lines behind it move up, and the entry is FREE. -/
def retireAnn (n : AnnId) (s : State) : State :=
  match tget s.announcements n with
  | none => s
  | some a =>
    let k := annPosition s a.board n
    let s1 := { s with
      announcements := tput s.announcements n none
      depBoards := tupd s.depBoards a.board fun e => { e with list := e.list.filter (· ≠ n) } }
    announceEvent a.board (renderFrom a.board k s1)

/-! ### The demonstration unit's buttons (R144, R147) -/

/-- Set a button's state; its lamp output holds the state (R144). -/
def setButtonState (b : ButtonId) (x : ButtonState) (s : State) : State :=
  let s1 := { s with buttons := tupd s.buttons b fun e => { e with state := x } }
  match (tget s.buttons b).cfg with
  | none => s1
  | some c => setLamp c.board c.channel x s1

/-- A button's cooldown in milliseconds. -/
def cooldownOf (s : State) (b : ButtonId) : Nat := ((tget s.buttons b).cfg.map (·.cooldown * 1000)).getD 0

/-- The demonstration unit is told that a move or a reservation has ended: a button BUSY with it goes COOLDOWN (R147). -/
def busyEnds (w : BusyWith) (s : State) : State :=
  forEach (idsWhere s.buttons fun e => e.state == .busy && e.busyWith == some w) (fun b s =>
    setButtonState b .cooldown
      { s with buttons := tupd s.buttons b fun e => { e with busyWith := none, cooldownTimer := some (cooldownOf s b) } }) s

end Sys2Proof.Machine
end

