-- ==== Sys2Proof/Machine/Interlock.lean ====
section
/-! DEFINITION. The interlocking's changes among SETTING, PROVED and OPEN: the change of state and whom it is handed to
(R57), requirements and the setting cursor (R44, R64, R65), the open conditions (R66) and loss of requirement (R67). -/

namespace Sys2Proof.Machine

/-- The fixed hold of a demonstration route: 20 s (R88). -/
def demoHoldTime : Nat := 20000

/-- A reservation as it enters a state: going OPEN sets has-been-open (R66) and starts a stopped demonstration hold timer;
TRAVERSED, APPROACH_HELD and RELEASING stop that timer (R88). -/
def Reservation.enter (v : Reservation) (x : ResState) : Reservation :=
  { v with
    state := x
    hasBeenOpen := v.hasBeenOpen || x == .opened
    demoHold := match x with
      | .opened => if v.owner = .demo ∧ v.demoHold = none then some demoHoldTime else v.demoHold
      | .traversed | .approachHeld | .releasing => none
      | _ => v.demoHold }

/-- Hand a change of a reservation's state on (R57): the signal controller if it enters or leaves OPEN, the display unit,
and the ROUTE event for the owner. -/
def handOnChange (entrance : SignalId) (v : Reservation) (before after : ResState) (s : State) : State :=
  let s1 := if before = .opened ∨ after = .opened then deriveSignal entrance s else s
  let s2 := reservationReport entrance (if after = .traversed then v.train else none) s1
  setOwnerFlag .route v.owner s2

/-- Change the state of a live reservation and hand the change on. -/
def changeState (r : ResId) (x : ResState) (s : State) : State :=
  match resDef s r with
  | none => s
  | some (v, d) =>
    if v.state = x then s
    else handOnChange d.entrance v v.state x (setRes r (some (v.enter x)) s)

/-- Give a reservation a fault note; ROUTE FAILED is set for the owner and the supervisor (R57, R68; log 17). -/
def setFault (r : ResId) (note : FaultNote) (s : State) : State :=
  match getRes s r with
  | none => s
  | some v => setFlag .routeFailed supervisor (setOwnerFlag .routeFailed v.owner (updRes r (fun v => { v with fault := note }) s))

/-! ### Requirements (R44, R64) -/

/-- The requirement elements: the path, then the overlap while it is not released. -/
def reqElems (v : Reservation) (d : RouteDef) : List RouteElem :=
  d.path ++ if v.overlapReleased then [] else d.overlap

/-- A point requirement is met while the point's state is the required position (R44). -/
def pointMet (s : State) (e : RouteElem) : Bool :=
  match e.point with
  | none => true
  | some q => (tget s.points q.point).state.is q.pos

/-- A deck requirement is met while the turntable is IDLE at an accepted position and the deck lock is HELD by the
reservation (R44, R64). -/
def deckMet (s : State) (r : ResId) (e : RouteElem) : Bool :=
  match e.deck with
  | none => true
  | some q => s.tt.state == .idle && (s.tt.position.map q.accepts).getD false && s.tt.deckLock == .held r

/-- An element is met when each of its requirements is (R64). -/
def elemMet (s : State) (r : ResId) (e : RouteElem) : Bool := pointMet s e && deckMet s r e

/-- The first element that is not met, counted from 0; the requirement count if all are met. The cursor stands there after
every event that advances it or moves it back (R65). -/
def firstUnmet (s : State) (r : ResId) (v : Reservation) (d : RouteDef) : Nat :=
  ((reqElems v d).takeWhile (elemMet s r)).length

/-! ### Opening (R66) -/

/-- Every section of a list of elements is CLEAR. -/
def allClear (s : State) (es : List RouteElem) : Bool := es.all fun e => occOf s e.sec == .clear

/-- The district of path element 0 is NORMAL. -/
def firstDistrictNormal (s : State) (d : RouteDef) : Bool :=
  match d.path.head?.bind fun e => (tget s.sections e.sec).cfg with
  | none => false
  | some c => (tget s.districts c.district).state == .normal

/-- The open conditions (R66). -/
def openConditions (s : State) (r : ResId) (d : RouteDef) : Bool :=
  allClear s d.overlap && (d.cls == .shunt || allClear s d.path) && (tget s.signals d.entrance).controlled
    && firstDistrictNormal s d && d.path.all (deckMet s r)

/-- Test the open conditions of a reservation in PROVED or OPEN (R66). -/
def testOpen (r : ResId) (s : State) : State :=
  match resDef s r with
  | none => s
  | some (v, d) =>
    match v.state with
    | .proved => if openConditions s r d then changeState r .opened s else s
    | .opened => if openConditions s r d then s else changeState r .proved s
    | _ => s

/-! ### The setting cursor and loss of requirement (R65, R67) -/

/-- The fault note of a lost requirement: the point that is not met, or the deck. -/
def lostNote (s : State) (e : Option RouteElem) : FaultNote :=
  match e with
  | none => .deck
  | some e => if pointMet s e then .deck else match e.point with
    | some q => .point q.point
    | none => .deck

/-- The interlocking takes a change of a point, of the turntable or of the overlap for a reservation. In SETTING the cursor
moves to the first unmet element, and at the requirement count the reservation goes PROVED and its open conditions are
tested (R65). In PROVED or OPEN an unmet requirement is a loss of requirement (R67). -/
def recheck (r : ResId) (s : State) : State :=
  match resDef s r with
  | none => s
  | some (v, d) =>
    let k := firstUnmet s r v d
    match v.state with
    | .setting =>
      if k = (reqElems v d).length then
        testOpen r (changeState r .proved (updRes r (fun v => { v with settingCursor := k, fault := .clean }) s))
      else updRes r (fun v => { v with settingCursor := k }) s
    | .proved | .opened =>
      if k < (reqElems v d).length then
        setFault r (lostNote s (reqElems v d)[k]?)
          (changeState r .setting (updRes r (fun v => { v with settingCursor := k }) s))
      else s
    | _ => s

/-- The reservations whose definition has a section in its path or overlap. -/
def reservationsOver (s : State) (n : SectionId) : List ResId :=
  (liveReservations s).filter fun r =>
    match resDef s r with
    | none => false
    | some (_, d) => (d.path ++ d.overlap).any (·.sec == n)

/-- The interlocking takes a change of state of a point: the reservation its lock named (R65, R67). -/
def pointChanged (lock : PointLock) (s : State) : State :=
  match lock with
  | .res r => recheck r s
  | _ => s

/-- The reservation that the deck lock names. -/
def DeckLock.holder : DeckLock → Option ResId
  | .free => none
  | .promised r => some r
  | .held r => some r

/-- The interlocking takes a change of the turntable's state or position, or of the deck lock (R65, R66, R67). -/
def turntableChanged (s : State) : State :=
  match s.tt.deckLock.holder with
  | none => s
  | some r => testOpen r (recheck r s)

/-- The deck hold of a reservation follows the deck lock (R62). -/
def deckHoldOf (s : State) (r : ResId) : DeckHold :=
  match s.tt.deckLock with
  | .free => .free
  | .promised q => if q = r then .promised else .free
  | .held q => if q = r then .held else .free

/-- The interlocking takes the set train call (R95): the train field changes, and the display unit is told. -/
def setResTrain (r : ResId) (t : Option TrainId) (s : State) : State :=
  match resDef s r with
  | none => s
  | some (v, d) =>
    if v.train = t then s
    else reservationReport d.entrance (if v.state = .traversed then t else none)
      (updRes r (fun v => { v with train := t }) s)

end Sys2Proof.Machine
end

