-- ==== Sys2Proof/Machine/Points.lean ====
section
/-! DEFINITION. The point drive's queue: appending, removing and starting throw orders (R30 to R34), and the POINT event
(R28). -/

namespace Sys2Proof.Machine

/-- The capacity of the throw queue (2.3). -/
def throwQueueSize : Nat := 32

/-- The receivers of the POINT event: the supervisor and every station whose point territory holds the point (R28). -/
def pointEvent (p : PointId) (s : State) : State :=
  setFlags .point (supervisor :: stationsWith s (·.point p)) s

/-- Set the drive of a point in its board's output image (R34). -/
def drivePoint (p : PointId) (d : PointDrive) (s : State) : State :=
  match (tget s.points p).cfg with
  | none => s
  | some c => setDrive c.board c.channel d s

/-- Start the throw of an order (R33): the order leaves the queue, the point becomes MOVING, its throw timer and the
recharge timer start, and the drive is set. The change is handed to the interlocking. -/
def startThrow (o : ThrowOrder) (rest : List ThrowOrder) (s : State) : State :=
  let lock := (tget s.points o.point).lock
  let s1 := { s with
    throwQueue := rest
    rechargeTimer := some s.timing.rechargeGap
    points := tupd s.points o.point fun e =>
      { e with state := .moving, target := some o.pos, throwOwner := o.owner, releaseAtEnd := false,
               throwTimer := some s.timing.throwTime } }
  pointChanged lock (drivePoint o.point (posDrive o.pos) s1)

/-- Whether an order placed by THROW POINT is dropped at its start: its section is not CLEAR, or is locked (R33). -/
def manualBlocked (s : State) (o : ThrowOrder) : Bool :=
  match (tget s.points o.point).cfg with
  | none => true
  | some c => occOf s c.sec != .clear || (lockOf s c.sec).isSome

/-- Whether the point drive may start a throw now (R32). -/
def mayStart (s : State) : Bool := decide (throwsInMotion s < 2) && !s.rechargeTimer.isSome

/-- Consider a start for the orders of the queue in turn: a dropped order makes the next one the head (R32, R33). -/
def considerOrders : List ThrowOrder → State → State
  | [], s => s
  | o :: rest, s =>
    if mayStart s then
      if o.owner = none ∧ manualBlocked s o then considerOrders rest (pointEvent o.point { s with throwQueue := rest })
      else startThrow o rest s
    else s

/-- The point drive considers a start (R32). -/
def considerStart (s : State) : State := considerOrders s.throwQueue s

/-- Whether an append call is refused (R30). -/
def appendRefused (s : State) (p : PointId) : Bool :=
  decide (throwQueueSize ≤ s.throwQueue.length) || (queuedOrder s p).isSome || (tget s.points p).state == .moving

/-- Append an order to the tail and consider a start; a refused call leaves the queue unchanged (R30). -/
def appendOrder (o : ThrowOrder) (s : State) : State :=
  if appendRefused s o.point then s else considerStart { s with throwQueue := s.throwQueue ++ [o] }

/-- Whether the remove orders call names an order: its owner is the reservation and, when points are named, its point is
one of them (R31). -/
def orderNamed (r : ResId) (pts : Option (List PointId)) (o : ThrowOrder) : Bool :=
  o.owner == some r && match pts with
    | none => true
    | some l => l.contains o.point

/-- The remove orders call (R31); if the head was removed, a start is considered. -/
def removeOrders (r : ResId) (pts : Option (List PointId)) (s : State) : State :=
  let s1 := { s with throwQueue := s.throwQueue.filter fun o => !orderNamed r pts o }
  if (s.throwQueue.head?.map (orderNamed r pts)).getD false then considerStart s1 else s1

/-- The disown call (R31): the throws in motion of a reservation that is being retired. -/
def disown (r : ResId) (s : State) : State :=
  forEach (throwsInFlight s r) (fun p s =>
    { s with points := tupd s.points p fun e =>
      { e with throwOwner := none, releaseAtEnd := true, lock := if e.lock = .res r then .disowned else e.lock } }) s

end Sys2Proof.Machine
end

