-- ==== Sys2Proof/Machine/Turntable.lean ====
section
/-! DEFINITION. The turntable controller's queue: the deck lock calls (R110), placing and removing moves (R124), and
starting them (R113 to R116, R126). -/

namespace Sys2Proof.Machine

/-- The capacity of the move queue (R113). -/
def moveQueueSize : Nat := 8

/-- The wait timer of an OPERATOR or DEMO move (R115). -/
def waitTime : Nat := 60000

/-- The time limit of unbolting and of bolting (7.3). -/
def boltTime : Nat := 2000

/-- Change the turntable record. -/
def setTt (f : Turntable → Turntable) (s : State) : State := { s with tt := f s.tt }

/-- Set the turntable outputs in the board's image (R109). -/
def setTtOutputs (f : OutputImage → OutputImage) (s : State) : State :=
  match s.tt.cfg with
  | none => s
  | some c => setImage c.board f s

/-- The deck section, while the turntable is configured. -/
def deckSection (s : State) : Option SectionId := s.tt.cfg.map (·.deck)

/-- The train whose head is on the deck section. -/
def deckHead (s : State) : Option TrainId := (deckSection s).bind (headIn s)

/-- A move that waits at the head of the queue runs its wait timer: only OPERATOR and DEMO moves have one (R115). -/
def Move.waits (m : Move) : Bool :=
  match m.kind with
  | .operator _ | .demo _ => true
  | .interlocking _ | .home => false

/-- The queue with its wait timers as R115 gives: the head's runs, started afresh at 60 s when the move becomes head, and
every other is stopped. -/
def retime : List Move → List Move
  | [] => []
  | m :: rest =>
    { m with waitTimer := if m.waits then some (m.waitTimer.getD waitTime) else none }
      :: rest.map fun x => { x with waitTimer := none }

/-- Set the queue, with its wait timers. -/
def setQueue (q : List Move) (s : State) : State := setTt (fun t => { t with queue := retime q }) s

/-- A PROMISED deck lock becomes HELD when the current move ends (R110). -/
def DeckLock.atMoveEnd : DeckLock → DeckLock
  | .promised r => .held r
  | l => l

/-- Report the end or the drop of a move to its requester, for kinds other than INTERLOCKING (R112, R147). -/
def reportMove (m : Move) (s : State) : State :=
  match m.kind with
  | .operator st => setFlags .turntable [st, supervisor] s
  | .demo _ => busyEnds (.move m.number) s
  | .interlocking _ | .home => s

/-- Whether the deck lock lets a move start (R114). -/
def lockAllows (l : DeckLock) (k : MoveKind) : Bool :=
  match k with
  | .interlocking (some r) => l == .held r
  | .interlocking none => false
  | .operator _ | .demo _ | .home => l == .free

/-- The start conditions of the head move (R114). -/
def mayMove (s : State) (m : Move) : Bool :=
  match s.tt.cfg with
  | none => false
  | some c =>
    s.tt.current.isNone && s.tt.state == .idle && lockAllows s.tt.deckLock m.kind && occOf s c.pit1 == .clear
      && occOf s c.pit2 == .clear
      && (occOf s c.deck == .clear || (occOf s c.deck == .occupied && (headIn s c.deck).isSome))

/-- The target of a move when it starts: its own, or the one worked out for a move relative to a train (R126). -/
def startTarget (s : State) (m : Move) : Option RoadId :=
  match m.relative with
  | none => m.target
  | some q =>
    match deckHead s with
    | none => none
    | some t =>
      if t = q.train then
        (((tget s.trains t).bind (·.facing)).map fun f =>
          endPosition q.road (if q.front then f else match f with
            | .a => .b
            | .b => .a))
      else none

/-- The current move ends at its target and leaves the turntable IDLE (R118). The end is reported to an OPERATOR or a
DEMO requester, a PROMISED lock becomes HELD, and the interlocking takes the change of the turntable. -/
def endAtTarget (m : Move) (s : State) : State :=
  turntableChanged (reportMove m (setTt (fun t =>
    { t with state := .idle, phase := none, stageTimer := none, current := none, deckLock := t.deckLock.atMoveEnd }) s))

/-- Enter UNBOLTING (R116). -/
def enterUnbolting (s : State) : State :=
  turntableChanged (setTtOutputs (fun i => { i with ttDrive := .stop, ttBolt := .isOut })
    (setTt (fun t => { t with state := .unbolting, stageTimer := some boltTime }) s))

/-- Consider a start for the head of the queue (R114). `n` bounds the moves that end or are dropped at once. -/
def considerMoves : Nat → State → State
  | 0, s => s
  | n + 1, s =>
    match s.tt.queue with
    | [] => s
    | m :: rest =>
      if mayMove s m then
        match startTarget s m with
        | none => considerMoves n (reportMove m (setQueue rest s))
        | some g =>
          let cur := { m with waitTimer := none, target := some g }
          let s1 := setTt (fun t => { t with current := some cur }) (setQueue rest s)
          if s.tt.position = some g then considerMoves n (endAtTarget cur s1)
          else enterUnbolting s1
      else s

/-- The turntable controller considers a start (R114). -/
def considerMove (s : State) : State := considerMoves (s.tt.queue.length + 1) s

/-- The number the next move takes; the next number then rises by 1 (R113). -/
def takeMoveNo (s : State) : MoveNo × State := (s.tt.nextMoveNo, setTt (fun t => { t with nextMoveNo := t.nextMoveNo + 1 }) s)

/-- The take deck call (R110). -/
def takeDeck (r : ResId) (s : State) : State :=
  let turning := s.tt.state == .unbolting || s.tt.state == .turning || s.tt.state == .bolting
  turntableChanged (setTt (fun t => { t with deckLock := if turning then .promised r else .held r }) s)

/-- A running INTERLOCKING move of a reservation (R82). -/
def moveInFlight (s : State) (r : ResId) : Bool := (s.tt.current.map (·.kind == .interlocking (some r))).getD false

/-- The release deck call (R110): a lock that names the reservation becomes none, and its running move is orphaned. A
change of the lock makes the controller consider a start. -/
def releaseDeck (r : ResId) (s : State) : State :=
  let named := s.tt.deckLock.holder == some r
  let s1 := setTt (fun t => { t with
    deckLock := if named then .free else t.deckLock
    current := t.current.map fun m => if m.kind = .interlocking (some r) then { m with kind := .interlocking none } else m }) s
  if named then considerMove s1 else s1

/-- The place move call (R124): an INTERLOCKING move joins the front of the queue, and a start is considered. -/
def placeMove (r : ResId) (g : RoadId) (s : State) : State :=
  let m : Move := ⟨s.tt.nextMoveNo, .interlocking (some r), some g, none, none⟩
  considerMove (setQueue (m :: s.tt.queue) (takeMoveNo s).2)

/-- Whether a reservation's INTERLOCKING move stands in the queue. -/
def moveQueued (s : State) (r : ResId) : Bool := s.tt.queue.any (·.kind == .interlocking (some r))

/-- The remove move call (R124): the reservation's queued move goes without a report, and a start is considered. -/
def removeMove (r : ResId) (s : State) : State :=
  if moveQueued s r then
    considerMove (setQueue (s.tt.queue.filter fun m => m.kind != .interlocking (some r)) s)
  else s

/-- A move joins the tail of the queue, and a start is considered (R113). -/
def queueMove (m : Move) (s : State) : State := considerMove (setQueue (s.tt.queue ++ [m]) (takeMoveNo s).2)

/-- The turntable's present alignment (R62): its position when IDLE, the target of the running move, position 0 when
HOMING. -/
def presentAlignment (s : State) : Option RoadId :=
  match s.tt.state with
  | .idle => s.tt.position
  | .unbolting | .turning | .bolting => s.tt.current.bind (·.target)
  | .homing => some 0
  | .unknown | .failed => none

/-- The target of the alignment a deck requirement needs, or none if the present alignment is accepted (R62). -/
def neededAlignment (s : State) (q : DeckReq) : Option RoadId :=
  (presentAlignment s).bind fun p => if q.accepts p then none else some (q.target p)

end Sys2Proof.Machine
end

