-- ==== Sys2Proof/Machine/Release.lean ====
section
/-! DEFINITION. Releasing a route: retirement (R79), overlap release (R78), sectional release (R75, R76), cancel (R81 to
R83), and the ends of operations in flight (R68, R84, R85, R87). -/

namespace Sys2Proof.Machine

/-! ### Retirement (R79) -/

/-- Step 1 and 2: the reservation leaves its state with every timer stopped; one that was OPEN puts its signal to DANGER
before any lock is released. The state it stands in until the entry is FREE is one that no rule acts on. -/
def leaveForRetirement (r : ResId) (v : Reservation) (d : RouteDef) (s : State) : State :=
  let s1 := setRes r (some { v with
    state := .releasing, releaseOrigin := none, approachTimer := none, overlapTimer := none, emergencyTimer := none,
    demoHold := none }) s
  if v.state = .opened then deriveSignal d.entrance s1 else s1

/-- Step 4: every section whose lock names the reservation is released. -/
def releaseAllSections (r : ResId) (s : State) : State := forEach (sectionsLockedTo s r) (fun n => releaseSection n r) s

/-- The points whose lock names the reservation, but for those MOVING under its order. -/
def restingPoints (s : State) (r : ResId) : List PointId :=
  idsWhere s.points fun e => e.lock == .res r && !(e.state == .moving && e.throwOwner == some r)

/-- Step 5, first part: those points are released. -/
def releaseRestingPoints (r : ResId) (s : State) : State := forEach (restingPoints s r) (fun p => releasePoint p r) s

/-- Step 7 and 8: the entrance is free and the entry is FREE. -/
def freeEntry (r : ResId) (entrance : SignalId) (s : State) : State :=
  setRes r none { s with signals := tupd s.signals entrance fun e => { e with entranceOf := none } }

/-- Retire a reservation (R79), and hand the retirement on: the display unit, the owner's ROUTE event, and for owner 15 the
demonstration unit. -/
def retire (r : ResId) (s : State) : State :=
  match resDef s r with
  | none => s
  | some (v, d) =>
    let s2 := leaveForRetirement r v d s
    let s3 := removeMove r (removeOrders r none s2)
    let s5 := disown r (releaseRestingPoints r (releaseAllSections r s3))
    let s8 := freeEntry r d.entrance (releaseDeck r s5)
    let s9 := setOwnerFlag .route v.owner (reservationReport d.entrance none s8)
    match v.owner with
    | .demo => busyEnds (.res r) s9
    | .station _ => s9

/-! ### Sectional release and overlap release (R75 to R78) -/

/-- Sectional release runs in TRAVERSED, and in RELEASING taken from TRAVERSED (R75). -/
def Reservation.releases (v : Reservation) : Bool :=
  v.state == .traversed || (v.state == .releasing && v.releaseOrigin == some .traversed)

/-- Release the overlap (R78), if it is not released: its sections and points still locked to the reservation go, and the
overlap timer stops. A reservation in SETTING then has its cursor advanced (R65). The setting cursor never stands beyond
the requirement count (R56). -/
def releaseOverlap (r : ResId) (s : State) : State :=
  match resDef s r with
  | none => s
  | some (v, d) =>
    if v.overlapReleased then s
    else
      let s1 := forEach (d.overlap.map (·.sec)) (fun n => releaseSection n r) s
      let s2 := forEach (elemPoints d.overlap) (fun p => releasePoint p r) s1
      let s3 := updRes r (fun v => { v with
        overlapReleased := true, overlapTimer := none, settingCursor := min v.settingCursor d.path.length }) s2
      if v.state = .setting then recheck r s3 else s3

/-- Retire a reservation whose path is wholly released and whose overlap is released (R76, R78). -/
def retireIfDone (r : ResId) (s : State) : State :=
  match resDef s r with
  | none => s
  | some (v, d) =>
    if v.releases ∧ d.path.length ≤ v.releaseCursor ∧ v.overlapReleased = true then retire r s else s

/-- Whether path element `c` is releasable (R75): its section is CLEAR, and it is the last one or the next section is
OCCUPIED. -/
def releasable (s : State) (d : RouteDef) (c : Nat) : Bool :=
  match d.path[c]? with
  | none => false
  | some e => occOf s e.sec == .clear && match d.path[c + 1]? with
    | none => true
    | some e' => occOf s e'.sec == .occupied

/-- Release path element `k` (R76, steps 1 to 5). -/
def releaseElement (r : ResId) (d : RouteDef) (k : Nat) (e : RouteElem) (s : State) : State :=
  let s1 := releaseSection e.sec r s
  let s2 := match e.point with
    | none => s1
    | some q => releasePoint q.point r s1
  let s3 := if e.deck.isSome then releaseDeck r s2 else s2
  let s4 := updRes r (fun v => { v with releaseCursor := k + 1 }) s3
  if k + 1 = d.path.length then releaseOverlap r s4 else s4

/-- Test the element at the release cursor, and again after each release (R75). -/
def releaseLoop : Nat → ResId → State → State
  | 0, _, s => s
  | n + 1, r, s =>
    match resDef s r with
    | none => s
    | some (v, d) =>
      match d.path[v.releaseCursor]? with
      | none => s
      | some e =>
        if v.releases && releasable s d v.releaseCursor then
          releaseLoop n r (releaseElement r d v.releaseCursor e s)
        else s

/-- A route has at most 12 path elements (R43). -/
def maxPath : Nat := 12

/-- Sectional release of a reservation, and its retirement when it holds nothing more (R75, R76). -/
def sectionalRelease (r : ResId) (s : State) : State := retireIfDone r (releaseLoop maxPath r s)

/-! ### Dropping locks and cancelling (R80 to R83) -/

/-- The approach of a definition is occupied when an approach section is not CLEAR (R81). -/
def approachOccupied (s : State) (d : RouteDef) : Bool := d.approach.any fun n => occOf s n != .clear

/-- A cancelled reservation drops its locks (R83); in CANCELLING with its move running the deck lock is kept. -/
def dropLocks (r : ResId) (s : State) : State :=
  match resDef s r with
  | none => s
  | some (v, d) =>
    let s1 := updRes r (fun v => { v with
      releaseCursor := d.path.length, overlapReleased := true, overlapTimer := none
      settingCursor := min v.settingCursor d.path.length }) (releaseAllSections r s)
    let s2 := releaseRestingPoints r s1
    if v.state = .cancelling ∧ moveInFlight s2 r = true then s2 else releaseDeck r s2

/-- Whether an operation of a reservation is in flight (R82). -/
def inFlight (s : State) (r : ResId) : Bool := !(throwsInFlight s r).isEmpty || moveInFlight s r

/-- Enter APPROACH_HELD: the approach timer starts with the definition's approach release time (R81, R82). -/
def holdApproach (r : ResId) (d : RouteDef) (s : State) : State :=
  changeState r .approachHeld (updRes r (fun v => { v with approachTimer := some (d.approachTime * 1000) }) s)

/-- Withdraw the queued work of a reservation (R82, R86): its orders, its queued move, and a PROMISED deck lock. -/
def withdrawWork (r : ResId) (s : State) : State :=
  let s1 := removeMove r (removeOrders r none s)
  if s1.tt.deckLock = .promised r then releaseDeck r s1 else s1

/-- Cancel a reservation in OPEN, PROVED or SETTING under the rule for its state (R81, R82). -/
def cancel (r : ResId) (s : State) : State :=
  match resDef s r with
  | none => s
  | some (v, d) =>
    let hold := v.hasBeenOpen && approachOccupied s d
    match v.state with
    | .opened | .proved => if hold then holdApproach r d s else retire r s
    | .setting =>
      let s1 := withdrawWork r s
      if hold then
        let s2 := holdApproach r d s1
        if inFlight s1 r then dropLocks r s2 else s2
      else if inFlight s1 r then dropLocks r (changeState r .cancelling s1)
      else retire r s1
    | _ => s

/-! ### The ends of operations in flight -/

/-- A CANCELLING reservation with nothing in flight is retired (R84). -/
def retireIfIdle (r : ResId) (s : State) : State := if inFlight s r then s else retire r s

/-- An APPROACH_HELD reservation whose locks were dropped: its release cursor stands at the number of path elements
(R83). -/
def locksDropped (v : Reservation) (d : RouteDef) : Bool := decide (d.path.length ≤ v.releaseCursor)

inductive ThrowOutcome where | succeeded | failed | unknown
  deriving DecidableEq, Repr

/-- The interlocking takes the end of a throw of point `p` ordered by reservation `r` (R68, R84, R85, R87). -/
def ownedThrowEnded (r : ResId) (p : PointId) (out : ThrowOutcome) (s : State) : State :=
  match resDef s r with
  | none => s
  | some (v, d) =>
    match v.state with
    | .setting =>
      let s1 := recheck r s
      if out ≠ .succeeded ∧ p ∈ elemPoints (reqElems v d) then setFault r (.point p) s1 else s1
    | .cancelling => retireIfIdle r (releasePoint p r s)
    | .approachHeld =>
      if locksDropped v d then
        let s1 := releasePoint p r s
        if (throwsInFlight s1 r).isEmpty then retire r s1 else s1
      else s
    | _ => s

inductive MoveOutcome where | atTarget | failed | stopped | dropped
  deriving DecidableEq, Repr

/-- The interlocking takes the end of an INTERLOCKING move that has a reservation behind it (R69, R84, R89, R111). -/
def ownedMoveEnded (r : ResId) (out : MoveOutcome) (s : State) : State :=
  match getRes s r with
  | none => s
  | some v =>
    match v.state with
    | .setting => if out = .atTarget then s else setFault r .deck s
    | .cancelling => retireIfIdle r (releaseDeck r s)
    | _ => s

/-- Report the end or the drop of any move to its requester (R111, R112, R118, R120). -/
def moveEnded (m : Move) (out : MoveOutcome) (s : State) : State :=
  match m.kind with
  | .interlocking (some r) => ownedMoveEnded r out s
  | _ => reportMove m s

end Sys2Proof.Machine
end

