-- ==== Sys2Proof/Machine/TurntableRun.lean ====
section
/-! DEFINITION. Running a move: the stages and their reports (R109, R116 to R118), failure (R120, R121), homing (R123), the
pit edge (R119) and TURNTABLE RESET's work (R130, R89). -/

namespace Sys2Proof.Machine

/-- The path element that carries the deck requirement. -/
def deckElement (d : RouteDef) : Option Nat := d.path.findIdx? fun e => e.deck.isSome

/-- The reservation in SETTING that holds or awaits the deck, if its cursor stands at or before the deck element: it gets
the fault note DECK when the turntable enters FAILED or UNKNOWN (R69). -/
def awaitsDeck (s : State) : Option ResId :=
  s.tt.deckLock.holder.filter fun r =>
    match resDef s r with
    | none => false
    | some (v, d) => v.state == .setting && (deckElement d).any fun k => decide (v.settingCursor ≤ k)

/-- The fault note DECK for the reservation that awaited the deck as the turntable was about to fail (R69). -/
def deckFault (waiting : Option ResId) (s : State) : State :=
  match waiting with
  | none => s
  | some r => setFault r .deck s

/-- The last position takes the position, if it was one (R120, R130). -/
def Turntable.remembered (t : Turntable) : Option RoadId := t.position.or t.lastPosition

/-- Whether the turntable can enter FAILED: from any state but UNKNOWN and FAILED (R120). -/
def mayFail (s : State) : Bool := s.tt.state != .unknown && s.tt.state != .failed

/-- Enter FAILED (R120): the drive stops, the current move ends, every queued move is dropped, and the change is handed
on. Whether the cursor stands at or before the deck element (R69) is seen before the change moves it back (R65). -/
def enterFailed (s : State) : State :=
  if mayFail s then
    let s1 := setTtOutputs (fun i => { i with ttDrive := .stop }) s
    let s2 := setTt (fun t => { t with
      state := .failed, phase := none, stageTimer := none, lastPosition := t.remembered, position := none,
      current := none, queue := [], deckLock := t.deckLock.atMoveEnd }) s1
    let s3 := setFlag .turntable supervisor (deckFault (awaitsDeck s) (turntableChanged s2))
    let s4 := match s.tt.current with
      | none => s3
      | some m => moveEnded m .failed s3
    forEach s.tt.queue (fun m => moveEnded m .dropped) s4
  else s

/-- The current move ends at its target after bolting (R118). The end of an INTERLOCKING move goes to its reservation, and
a start is considered. -/
def finishMove (s : State) : State :=
  match s.tt.current with
  | none => s
  | some m =>
    let s1 := endAtTarget m s
    let s2 := match m.kind with
      | .interlocking (some r) => ownedMoveEnded r .atTarget s1
      | _ => s1
    considerMove s2

/-- Enter TURNING (R117): up to 12 clockwise steps go clockwise. -/
def enterTurning (s : State) : State :=
  let clockwise := match s.tt.position, s.tt.current.bind (·.target) with
    | some p, some g => decide (clockwiseSteps p g ≤ 12)
    | _, _ => true
  turntableChanged (setTtOutputs (fun i => { i with ttDrive := if clockwise then .clockwise else .anticlockwise })
    (setTt (fun t => { t with state := .turning, stageTimer := some s.timing.stepTime }) s))

/-- Enter BOLTING (R118). -/
def enterBolting (s : State) : State :=
  turntableChanged (setTtOutputs (fun i => { i with ttDrive := .stop, ttBolt := .isIn })
    (setTt (fun t => { t with state := .bolting, stageTimer := some boltTime }) s))

/-- The drive output as it stands (R109). -/
def driveOutput (s : State) : TtDrive :=
  match s.tt.cfg with
  | none => .stop
  | some c => (tget s.boards c.board).image.ttDrive

/-- A report with steps while TURNING (R117): the position moves; past the target or against the datum is a failure; at the
target the stage ends. -/
def turningStep (d : Nat) (datum : Bool) (s : State) : State :=
  match s.tt.position, s.tt.current.bind (·.target) with
  | some p, some g =>
    let clockwise := driveOutput s != .anticlockwise
    let left := if clockwise then clockwiseSteps p g else clockwiseSteps g p
    let p' := stepBy p clockwise d
    let s1 := turntableChanged (setTt (fun t => { t with position := some p', stageTimer := some s.timing.stepTime }) s)
    if left < d then enterFailed s1
    else if datum != (p'.val == 0) then enterFailed s1
    else if p' = g then enterBolting s1
    else s1
  | _, _ => s

/-- Homing begins its bolt phase (R123). -/
def homingBolt (s : State) : State :=
  setTtOutputs (fun i => { i with ttDrive := .stop, ttBolt := .isIn })
    (setTt (fun t => { t with phase := some .bolt, stageTimer := some boltTime }) s)

/-- Homing begins its seek phase (R123). -/
def homingSeek (s : State) : State :=
  setTtOutputs (fun i => { i with ttDrive := .clockwise })
    (setTt (fun t => { t with phase := some .seek, stepsCounted := 0, stageTimer := some s.timing.stepTime }) s)

/-- Homing ends: the turntable is IDLE at position 0 (R123). -/
def homingEnds (s : State) : State :=
  considerMove (turntableChanged (setFlag .turntable supervisor (setTt (fun t => { t with
    state := .idle, phase := none, stageTimer := none, position := some 0, interrupted := false, current := none,
    deckLock := t.deckLock.atMoveEnd }) s)))

/-- A report while HOMING (R123). In the unbolt and bolt phases a step fails the turntable though the report also ends the
phase, and in the seek phase the datum ends the phase though 24 steps have been counted (the model's choice, log 15). The
count stays within R108's 0 to 24 (the model's choice, log 54). -/
def homingReport (i : TurntableInputs) (d : Nat) (s : State) : State :=
  let atDatum := i.index && i.datum
  match s.tt.phase with
  | some .unbolt =>
    if 0 < d then enterFailed s
    else if i.bolt = .isOut then (if atDatum then homingBolt s else homingSeek s)
    else s
  | some .seek =>
    let s1 := if 0 < d then
        setTt (fun t => { t with stepsCounted := min 24 (t.stepsCounted + d), stageTimer := some s.timing.stepTime }) s
      else s
    if atDatum then homingBolt s1
    else if 24 ≤ s1.tt.stepsCounted then enterFailed s1
    else s1
  | some .bolt =>
    if 0 < d then enterFailed s
    else if i.bolt = .isIn ∧ atDatum = true then homingEnds s
    else s
  | none => s

/-- A drive fault fails the turntable while it is HOMING, UNBOLTING, TURNING or BOLTING (R119). -/
def faultTaken (s : State) : Bool :=
  s.tt.state == .homing || s.tt.state == .unbolting || s.tt.state == .turning || s.tt.state == .bolting

/-- A report of the turntable's board, taken by the state (R109, R116 to R119, R123). Where one report gives both a failure
and an end, the failure is taken: the drive fault, then steps counted where the deck should stand, and only then the bolt
(the model's choice, log 15). -/
def turntableTake (i : TurntableInputs) (d : Nat) (s : State) : State :=
  if i.fault && faultTaken s then enterFailed s
  else
    match s.tt.state with
    | .unknown | .failed => s
    | .idle => if i.bolt ≠ .isIn ∨ i.index = false ∨ 0 < d then enterFailed s else s
    | .unbolting => if 0 < d then enterFailed s else if i.bolt = .isOut then enterTurning s else s
    | .turning => if 0 < d then turningStep d i.datum s else s
    | .bolting => if 0 < d then enterFailed s else if i.bolt = .isIn ∧ i.index = true then finishMove s else s
    | .homing => homingReport i d s

/-- A report of a TURNTABLE board (R109): the steps are the index count less the last one, modulo 256. -/
def turntableReport (a : BoardIdx) (i : TurntableInputs) (s : State) : State :=
  if s.loadState = .ready ∧ s.tt.cfg.map (·.board) = some a then
    let d := match s.tt.lastIndexCount with
      | none => 0
      | some c => (i.count - c).toNat
    turntableTake i d (setTt (fun t => { t with lastIndexCount := some i.count }) s)
  else s

/-- Whether a pit-edge change fails the turntable: UNBOLTING, TURNING, and the unbolt and seek phases of HOMING (R119). -/
def pitWatched (s : State) : Bool :=
  match s.tt.state with
  | .unbolting | .turning => true
  | .homing => s.tt.phase == some .unbolt || s.tt.phase == some .seek
  | _ => false

/-- The turntable controller takes a section change (R114, R119). -/
def turntableSection (n : SectionId) (after : Occupancy) (s : State) : State :=
  match s.tt.cfg with
  | none => s
  | some c =>
    let pit := n == c.pit1 || n == c.pit2
    let s1 := if pit && after != .clear && pitWatched s then enterFailed s else s
    if pit || n == c.deck then considerMove s1 else s1

/-- The TURNTABLE board has left PRESENT (R121). -/
def turntableBoardLeaves (a : BoardIdx) (s : State) : State :=
  if s.tt.cfg.map (·.board) = some a then enterFailed s else s

/-- The first report after the board's return sets the last index count (R109). -/
def turntableBoardReturns (a : BoardIdx) (s : State) : State :=
  if s.tt.cfg.map (·.board) = some a then setTt (fun t => { t with lastIndexCount := none }) s else s

/-- The interlocking takes a TURNTABLE RESET for reservations in SETTING that hold or await the deck, or whose move was in
the queue (R89). -/
def resetFaults (queue : List Move) (s : State) : State :=
  forEach (liveReservations s) (fun r s =>
    match getRes s r with
    | none => s
    | some v =>
      if v.state = .setting ∧ (s.tt.deckLock.holder = some r ∨ queue.any (·.kind == .interlocking (some r)) = true) then
        setFault r .deck s
      else s) s

/-- The work of TURNTABLE RESET (R130), as the interlocking and the requesters take it (R89, R112). -/
def resetTurntable (s : State) : State :=
  let moving := s.tt.state == .homing || s.tt.state == .unbolting || s.tt.state == .turning || s.tt.state == .bolting
  let s1 := setTtOutputs (fun i => { i with ttDrive := .stop }) s
  let s2 := setTt (fun t => { t with
    state := .unknown, phase := none, stageTimer := none, stepsCounted := 0, interrupted := t.interrupted || moving
    current := none, queue := [], deckLock := t.deckLock.atMoveEnd, lastPosition := t.remembered, position := none }) s1
  let s3 := setFlag .turntable supervisor (resetFaults s.tt.queue (turntableChanged s2))
  let s4 := match s.tt.current with
    | none => s3
    | some m => moveEnded m .stopped s3
  forEach s.tt.queue (fun m => moveEnded m .dropped) s4

end Sys2Proof.Machine
end

