-- ==== Sys2Proof/Machine/Describer.lean ====
section
/-! DEFINITION. The train describer: predecessors (R93), steps (R94), berth conflicts (R96), facings (R97), lost trains and
boundary exit (R98), and the passing mark (R99). -/

namespace Sys2Proof.Machine

/-- The signals whose first-beyond section is a section, in ascending order (R73, R93, R176). -/
def signalsInto (s : State) (n : SectionId) : List SignalId :=
  idsWhere s.signals fun e => e.cfg.map (·.firstBeyond) == some n

/-- The berth section of a signal. -/
def berthOf (s : State) (sg : SignalId) : Option SectionId := (tget s.signals sg).cfg.map (·.berth)

/-- The finding of a predecessor (R93). -/
inductive Pred where | absent | is (n : SectionId) | ambiguous
  deriving DecidableEq, Repr

/-- The berths of a list of signals, each once, in order (log 34). -/
def berthsOf (s : State) (l : List SignalId) : List SectionId := (l.filterMap (berthOf s)).dedup

/-- The predecessor of a newly occupied section by the signals into it (R93, third case). -/
def predBySignals (s : State) (n : SectionId) : Pred :=
  match signalsInto s n with
  | [] => .absent
  | [sg] => match berthOf s sg with
    | none => .absent
    | some b => .is b
  | l =>
    match (berthsOf s l).filter fun b => (headIn s b).isSome with
    | [] => .absent
    | [b] => .is b
    | many => match many.filter fun b => occOf s b == .occupied with
      | [b] => .is b
      | _ => .ambiguous

/-- The predecessor of a newly occupied section, by the lock that the change carries (R93). -/
def predecessor (s : State) (n : SectionId) (lock : Option SectionLock) : Pred :=
  match lock with
  | some ⟨r, .path 0⟩ =>
    match (resDef s r).bind fun vd => berthOf s vd.2.entrance with
    | some b => .is b
    | none => .absent
  | some ⟨r, .path (k + 1)⟩ =>
    match (resDef s r).bind fun vd => vd.2.path[k]? with
    | some e => .is e.sec
    | none => .absent
  | _ => predBySignals s n

/-- The road whose road section is a section (R97). -/
def roadOf (s : State) (n : SectionId) : Option RoadId :=
  s.tt.cfg.bind fun c => (List.finRange 24).find? fun j => tget c.roads j == some n

/-- The turntable's answer to a position query: valid in IDLE, UNBOLTING, TURNING and BOLTING (R108). -/
def validPosition (s : State) : Option RoadId :=
  match s.tt.state with
  | .idle | .unbolting | .turning | .bolting => s.tt.position
  | _ => none

/-- The facing of a train that steps onto the deck from a section (R97). -/
def facingFrom (s : State) (p : SectionId) : Option DeckEnd :=
  match roadOf s p, validPosition s with
  | some j, some q => if q = j then some .b else if q = opposite j then some .a else none
  | _, _ => none

/-- What one new occupancy did at its section (R94, R96, R99). -/
inductive Arrival where | stepped (t : TrainId) | conflict (t : TrainId) | other (t : Option TrainId)
  deriving DecidableEq, Repr

/-- The train that a passing at danger concerns (R99). -/
def Arrival.concerned : Arrival → Option TrainId
  | .stepped t => some t
  | .conflict t => some t
  | .other t => t

/-- The change of the head in the deck section lets the turntable controller consider a start (R111). -/
def deckHeadChanged (n : SectionId) (s : State) : State := if deckSection s = some n then considerMove s else s

/-- A train steps from `p` into `n` (R94): its head moves, LOST goes, and its facing follows R97. -/
def stepTrain (t : TrainId) (p n : SectionId) (s : State) : State :=
  let onto := deckSection s == some n
  let f := facingFrom s p
  let s1 := updTrain t (fun v => { v with head := some n, lost := false, facing := if onto then f else none }) s
  let s2 := if onto && f.isNone then setFlag .train supervisor s1 else s1
  deckHeadChanged n (deckHeadChanged p s2)

/-- The owner of the reservation that a carried lock names. -/
def lockOwner (s : State) (lock : Option SectionLock) : Option Owner :=
  (lock.bind fun l => getRes s l.res).map (·.owner)

/-- The TRAIN event for the supervisor and the owner of the reservation that the carried lock names (R96, R98). -/
def trainEvent (lock : Option SectionLock) (s : State) : State :=
  let s1 := setFlag .train supervisor s
  match lockOwner s lock with
  | none => s1
  | some o => setOwnerFlag .train o s1

/-- A section that already holds a head is newly occupied with no train behind it: the train is found (R96). -/
def findTrainIn (n : SectionId) (s : State) : State × Arrival :=
  match headIn s n with
  | none => (s, .other none)
  | some u => (updTrain u (fun v => { v with lost := false }) s, .other (some u))

/-- The train describer takes a new occupancy (R93, R94, R96). An ambiguous arrival sets the supervisor's TRAIN event as
R93 says, also where the section holds a head that R96 finds (the model's choice, log 51). A section that is its own
predecessor (a signal configured with its berth equal to its first-beyond section) and holds the head of a train U has a
predecessor with a head that is not another train's, which R96 does not cover: it is taken as a berth conflict of U with
itself, U's flags unchanged (the model's choice, log 61). -/
def arrive (n : SectionId) (lock : Option SectionLock) (s : State) : State × Arrival :=
  match predecessor s n lock with
  | .absent => findTrainIn n s
  | .ambiguous => findTrainIn n (setFlag .train supervisor s)
  | .is p =>
    match headIn s p with
    | none => findTrainIn n s
    | some t =>
      if (headIn s n).isSome then (trainEvent lock s, .conflict t)
      else (stepTrain t p n s, .stepped t)

/-- The set train call that a step into path element 0 of a reservation makes (R94, step 4). -/
def setTrainCall (lock : Option SectionLock) (a : Arrival) : Option (ResId × TrainId) :=
  match lock, a with
  | some ⟨r, .path 0⟩, .stepped t => some (r, t)
  | _, _ => none

/-- Mark the train that a passing at danger concerns (R99). -/
def markPassed (a : Arrival) (s : State) : State :=
  match a.concerned with
  | none => s
  | some t => updTrain t (fun v => { v with passed := true }) s

/-- Whether a carried lock is the last path element of a reservation whose exit is BOUNDARY (R98). -/
def leavesLayout (s : State) (lock : Option SectionLock) : Bool :=
  match lock with
  | some ⟨r, .path k⟩ =>
    match resDef s r with
    | some (_, d) => d.exit == .boundary && k + 1 == d.path.length
    | none => false
  | _ => false

/-- A section that holds a head goes CLEAR: the train leaves the layout, or is LOST (R98). -/
def headSectionClears (n : SectionId) (lock : Option SectionLock) (s : State) : State :=
  match headIn s n with
  | none => s
  | some t =>
    if leavesLayout s lock then
      deckHeadChanged n (trainEvent lock
        (updTrain t (fun v => { v with head := none, facing := none, lost := false }) s))
    else if ((tget s.trains t).map (·.lost)).getD false then s
    else trainEvent lock (updTrain t (fun v => { v with lost := true }) s)

end Sys2Proof.Machine
end

