-- ==== Sys2Proof/Machine/Changes.lean ====
section
/-! DEFINITION. Section changes and what takes them (R3 to R7, R66, R73 to R77), the power districts (R11 to R17), and
holding (R6). -/

namespace Sys2Proof.Machine

/-! ### The interlocking takes a section change -/

/-- The reservations whose release cursor stands at a section or just before it (R75). -/
def releasingAt (s : State) (n : SectionId) : List ResId :=
  (liveReservations s).filter fun r =>
    match resDef s r with
    | none => false
    | some (v, d) => (d.path[v.releaseCursor]?.map (·.sec) == some n) || (d.path[v.releaseCursor + 1]?.map (·.sec) == some n)

/-- Sectional release for the reservations whose element at the cursor, or the next, is the changed section (R75). -/
def releaseAt (n : SectionId) (s : State) : State := forEach (releasingAt s n) sectionalRelease s

/-- The open conditions of the reservations over the changed section (R66). -/
def openTests (n : SectionId) (s : State) : State := forEach (reservationsOver s n) testOpen s

/-- A change of occupancy other than a new occupancy, handed to its three takers with the lock as it stood (R7). -/
def sectionChanged (n : SectionId) (after : Occupancy) (lock : Option SectionLock) (s : State) : State :=
  let s1 := if after = .clear then headSectionClears n lock s else s
  turntableSection n after (openTests n (releaseAt n s1))

/-- Write a section's occupancy, with clear pending no. -/
def putOcc (n : SectionId) (x : Occupancy) (s : State) : State :=
  { s with sections := tupd s.sections n fun e => { e with occ := x, clearTimer := none } }

/-- A section becomes held: the clear-delay timer stops, and CLEAR or OCCUPIED becomes UNKNOWN (R6). -/
def holdSection (n : SectionId) (s : State) : State :=
  if occOf s n = .unknown then putOcc n .unknown s
  else sectionChanged n .unknown (lockOf s n) (putOcc n .unknown s)

/-- The clear-delay timer of a section has expired: it becomes CLEAR (R5). -/
def clearSection (n : SectionId) (s : State) : State :=
  if occOf s n = .clear then putOcc n .clear s
  else sectionChanged n .clear (lockOf s n) (putOcc n .clear s)

/-! ### Power districts -/

/-- Set a district's booster enable in its board's output image (R11). -/
def boosterEnable (d : DistrictId) (on : Bool) (s : State) : State :=
  match (tget s.districts d).cfg with
  | none => s
  | some c => setEnable c.board c.channel on s

/-- The configured sections of a district (R176). -/
def sectionsOf (s : State) (d : DistrictId) : List SectionId :=
  idsWhere s.sections fun e => e.cfg.map (·.district) == some d

/-- The reservations whose path element 0 lies in a district (R66). -/
def reservationsFrom (s : State) (d : DistrictId) : List ResId :=
  (liveReservations s).filter fun r =>
    match resDef s r with
    | none => false
    | some (_, f) => (f.path.head?.bind fun e => (tget s.sections e.sec).cfg.map (·.district)) == some d

/-- The sections of a district that become held as it leaves NORMAL: those whose board is PRESENT (R6). -/
def sectionsToHold (s : State) (d : DistrictId) : List SectionId :=
  idsWhere s.sections fun e => match e.cfg with
    | none => false
    | some c => c.district == d && boardPresent s c.board

/-- A change of a district's state from `before`, handed on (R17): holding, the DISTRICT event for every station, and the
open conditions of the reservations whose path element 0 lies in it. -/
def districtChanged (d : DistrictId) (before : DistrictState) (s : State) : State :=
  let s1 := setFlagAll .district s
  let s2 := if before = .normal ∧ (tget s1.districts d).state ≠ .normal then forEach (sectionsToHold s1 d) holdSection s1 else s1
  forEach (reservationsFrom s2 d) testOpen s2

/-- The retry timer of a tripped district: 5 s (R13, R14). -/
def retryTime : Nat := 5000
/-- The confirm window: 1 s (R14). -/
def confirmTime : Nat := 1000
/-- The fault filter: 10 ms (R12). -/
def faultTime : Nat := 10

/-- Change a district's record. -/
def setDistrict (d : DistrictId) (f : DistrictRec → DistrictRec) (s : State) : State :=
  { s with districts := tupd s.districts d f }

/-- A fault is taken (R13, R14). -/
def faultIn (d : DistrictId) (s : State) : State :=
  let e := tget s.districts d
  match e.state with
  | .normal =>
    districtChanged d .normal (boosterEnable d false (setDistrict d (fun e => { e with
      state := .tripped, retryTimer := some retryTime, faultFilter := none }) s))
  | .tripped =>
    if e.confirmWindow.isSome then
      let n := e.retryCount + 1
      if n = 3 then
        districtChanged d .tripped (boosterEnable d false (setDistrict d (fun e => { e with
          state := .lockedOut, retryTimer := none, confirmWindow := none, faultFilter := none, retryCount := n }) s))
      else boosterEnable d false (setDistrict d (fun e => { e with
        retryTimer := some retryTime, confirmWindow := none, faultFilter := none, retryCount := n }) s)
    else setDistrict d (fun e => { e with faultFilter := none }) s
  | _ => setDistrict d (fun e => { e with faultFilter := none }) s

/-- Whether a district's booster is enabled: in NORMAL, and in TRIPPED with the confirm window open (R12). -/
def boosterOn (e : DistrictRec) : Bool := e.state == .normal || (e.state == .tripped && e.confirmWindow.isSome)

/-- A report of a booster's fault input (R12). -/
def faultReport (d : DistrictId) (active : Bool) (s : State) : State :=
  if boosterOn (tget s.districts d) then
    setDistrict d (fun e => { e with
      faultFilter := if active then some (e.faultFilter.getD faultTime) else none }) s
  else s

/-- The cut call (R15). -/
def cutDistrict (d : DistrictId) (sg : SignalId) (s : State) : State :=
  let e := tget s.districts d
  match e.state with
  | .cut | .off => s
  | x =>
    districtChanged d x (boosterEnable d false (setDistrict d (fun e => { e with
      state := .cut, cause := some sg, retryTimer := none, confirmWindow := none, faultFilter := none, retryCount := 0 }) s))

/-- A district whose booster board is on the failed board (R16). -/
def districtBoardLeaves (d : DistrictId) (s : State) : State :=
  let s1 := boosterEnable d false s
  match (tget s.districts d).state with
  | .normal => districtChanged d .normal (setDistrict d (fun e => { e with
      state := .tripped, retryCount := 0, faultFilter := none, retryTimer := none }) s1)
  | .tripped => setDistrict d (fun e => { e with retryTimer := none, confirmWindow := none, faultFilter := none }) s1
  | _ => s1

/-- A district whose booster board has returned (R16). -/
def districtBoardReturns (d : DistrictId) (s : State) : State :=
  if (tget s.districts d).state = .tripped then setDistrict d (fun e => { e with retryTimer := some retryTime }) s else s

/-- A district that is given power: its count is 0, its cause is none, and nothing of it runs (R11, R18). -/
def DistrictRec.restarted (x : DistrictState) (e : DistrictRec) : DistrictRec :=
  { e with state := x, retryCount := 0, cause := none, retryTimer := none, confirmWindow := none, faultFilter := none }

/-- A district is given power, or waits for its board: NORMAL if the board is PRESENT, TRIPPED if not (R11, R18). -/
def energise (d : DistrictId) (s : State) : State :=
  match (tget s.districts d).cfg with
  | none => s
  | some c =>
    if boardPresent s c.board then
      boosterEnable d true (setDistrict d (DistrictRec.restarted .normal) s)
    else setDistrict d (DistrictRec.restarted .tripped) s

/-! ### New occupancy (R73, R74, R77) -/

/-- Whether a new occupancy of `n` carrying a lock is taken for a signal whose first-beyond section is `n` (R73). -/
def entryTaken (s : State) (n : SectionId) (lock : Option SectionLock) (sg : SignalId) : Bool :=
  match lock with
  | some l => (tget s.signals sg).entranceOf == some l.res
  | none =>
    let shared := signalsInto s n
    let berthClear := fun x => ((berthOf s x).map (occOf s)) == some .clear
    shared.length ≤ 1 || !berthClear sg || shared.all berthClear

/-- The signals for which a new occupancy is taken, in ascending order. -/
def entrySignals (s : State) (n : SectionId) (lock : Option SectionLock) : List SignalId :=
  (signalsInto s n).filter (entryTaken s n lock)

/-- The state of the reservation from a signal. -/
def entranceState (s : State) (sg : SignalId) : Option ResState :=
  ((tget s.signals sg).entranceOf.bind (getRes s)).map (·.state)

/-- Entry at a signal: an OPEN or APPROACH_HELD reservation goes TRAVERSED (R73). -/
def enterAt (sg : SignalId) (s : State) : State :=
  match (tget s.signals sg).entranceOf with
  | none => s
  | some r =>
    match entranceState s sg with
    | some .opened => changeState r .traversed s
    | some .approachHeld => changeState r .traversed (updRes r (fun v => { v with approachTimer := none }) s)
    | _ => s

/-- The signals at which the new occupancy is a passing at danger: every one of them but those whose reservation is OPEN
(R73). -/
def passings (s : State) (l : List SignalId) : List SignalId := l.filter fun sg => entranceState s sg != some .opened

/-- Start the overlap timers for a new occupancy of a last path element (R77). -/
def startOverlapTimers (n : SectionId) (s : State) : State :=
  forEach (liveReservations s) (fun r s =>
    match resDef s r with
    | none => s
    | some (v, d) =>
      if v.releases ∧ v.overlapReleased = false ∧ v.overlapTimer = none ∧ d.path.getLast?.map (·.sec) = some n then
        updRes r (fun v => { v with overlapTimer := some s.timing.overlapTime }) s
      else s) s

/-- The set train call, taken by the interlocking (R95). -/
def takeSetTrain (call : Option (ResId × TrainId)) (s : State) : State :=
  match call with
  | none => s
  | some (r, t) => setResTrain r (some t) s

/-- Whether the order of the set train call and the change to TRAVERSED matters: the call changes the field of a
reservation that is about to go TRAVERSED (R135). -/
def trainRace (s : State) (call : Option (ResId × TrainId)) : Bool :=
  match call with
  | none => false
  | some (r, t) =>
    match getRes s r with
    | none => false
    | some v => (v.state == .opened || v.state == .approachHeld) && v.train != some t

/-- The order of the two, drawn as a free value where it matters (R135; log 9). -/
def drawOrder (call : Option (ResId × TrainId)) (s : State) : Bool × State :=
  if trainRace s call then (Config.setTrainFirst s.freeCtr, { s with freeCtr := s.freeCtr + 1 }) else (true, s)

/-- The signal and cut consequences of passings at danger (R74): the PASSED AT DANGER event for every station, and the
cut of the section's district in ascending signal number. -/
def takePassings (n : SectionId) (l : List SignalId) (s : State) : State :=
  if l.isEmpty then s
  else
    let s1 := setFlagAll .passedAtDanger s
    match (tget s.sections n).cfg with
    | none => s1
    | some c => forEach l (cutDistrict c.district) s1

/-- A new occupancy, CLEAR to OCCUPIED, handed to its three takers with the lock as it stood (R7). The cut that a passing
at danger makes is taken after they have taken the change (log 19). -/
def newOccupancy (n : SectionId) (lock : Option SectionLock) (s : State) : State :=
  let entries := entrySignals s n lock
  let passed := passings s entries
  let (s1, a) := arrive n lock s
  let call := setTrainCall lock a
  let (first, s2) := drawOrder call s1
  let s3 := if first then takeSetTrain call s2 else s2
  let entered := entries.filterMap fun sg => (tget s.signals sg).entranceOf
  let s4 := forEach entries enterAt s3
  let s5 := if first then s4 else takeSetTrain call s4
  let s6 := startOverlapTimers n s5
  let s7 := if passed.isEmpty then s6 else markPassed a s6
  let s8 := openTests n (releaseAt n (forEach entered sectionalRelease s7))
  takePassings n passed (turntableSection n .occupied s8)

/-- An OCCUPIED report is taken by the occupancy filter (R3). -/
def occupiedReport (n : SectionId) (s : State) : State :=
  let s1 := putOcc n .occupied s
  match occOf s n with
  | .occupied => s1
  | .clear => newOccupancy n (lockOf s n) s1
  | .unknown => sectionChanged n .occupied (lockOf s n) s1

/-- A CLEAR report is taken by the occupancy filter (R4). -/
def clearReport (n : SectionId) (s : State) : State :=
  let e := tget s.sections n
  if e.occ = .clear ∨ e.clearTimer.isSome then s
  else { s with sections := tupd s.sections n fun e => { e with clearTimer := some s.timing.clearDelay } }

/-- A detector report for a section (R2). -/
def detectorReport (n : SectionId) (active : Bool) (s : State) : State :=
  match (tget s.sections n).cfg with
  | none => s
  | some c =>
    if s.loadState = .ready ∧ cfgHeld s c = false then (if active then occupiedReport n s else clearReport n s) else s

end Sys2Proof.Machine
end

