-- ==== Sys2Proof/Machine/PointRun.lean ====
section
/-! DEFINITION. Detection reports, the ends of a throw and the failure of a POINT board (R26, R27, R35, R37, R38). -/

namespace Sys2Proof.Machine

/-! ### Detection (R26, R27) -/

/-- The detection value of two contacts (R26). -/
def contactsValue (c : Contacts) : Detection :=
  match c.normalMade, c.reverseMade with
  | true, false => .normal
  | false, true => .reverse
  | false, false => .none
  | true, true => .both

/-- The state of a point at rest after a detection value (R27); MOVING is not at rest and is left alone. -/
def atRest (x : PointState) (v : Detection) : PointState :=
  match x, v with
  | .normal, .normal => .normal
  | .normal, _ => .failed
  | .reverse, .reverse => .reverse
  | .reverse, _ => .failed
  | .unknown, .normal => .normal
  | .unknown, .reverse => .reverse
  | .unknown, .none => .unknown
  | .unknown, .both => .failed
  | .failed, _ => .failed
  | .moving, _ => .moving

/-- Whether a detection value is a position. -/
def Detection.is (v : Detection) : PointPos → Bool
  | .normal => v == .normal
  | .reverse => v == .reverse

/-- Whether a change of state sets the POINT event by the state it enters (R28): FAILED, or UNKNOWN. -/
def entersFault (x : PointState) : Bool := x == .failed || x == .unknown

/-- A point at rest changes state, and the change is handed on (R28). -/
def changeAtRest (p : PointId) (x : PointState) (s : State) : State :=
  let e := tget s.points p
  if e.state = x then s
  else
    let s1 := { s with points := tupd s.points p fun e => { e with state := x } }
    pointChanged e.lock (if entersFault x then pointEvent p s1 else s1)

/-! ### The end of a throw -/

/-- The state in which a throw leaves its point. -/
def ThrowOutcome.leaves (t : Option PointPos) : ThrowOutcome → PointState
  | .succeeded => (t.map posState).getD .unknown
  | .failed => .failed
  | .unknown => .unknown

/-- The record of a point after its throw: the timer is stopped, and a DISOWNED lock goes (R31). -/
def PointRec.atEnd (out : ThrowOutcome) (e : PointRec) : PointRec :=
  { e with
    state := out.leaves e.target, target := none, throwOwner := none, throwTimer := none, releaseAtEnd := false
    lock := if e.lock = .disowned then .free else e.lock }

/-- Whether the end of a throw sets the POINT event (R28): the point enters FAILED or UNKNOWN, or the throw has no
owner. -/
def endSetsEvent (out : ThrowOutcome) (owner : Option ResId) : Bool := out != .succeeded || owner == none

/-- The end of a throw, handed on with its owner and outcome (R35, R37, R38). A start is not yet considered. -/
def endThrow (p : PointId) (out : ThrowOutcome) (s : State) : State :=
  let e := tget s.points p
  let s1 := drivePoint p .idle { s with points := tupd s.points p (PointRec.atEnd out) }
  let s2 := if endSetsEvent out e.throwOwner then pointEvent p s1 else s1
  let s3 := pointChanged e.lock s2
  match e.throwOwner with
  | none => s3
  | some r => ownedThrowEnded r p out s3

/-- The end of a throw, after which a start is considered (R32). -/
def throwEnd (p : PointId) (out : ThrowOutcome) (s : State) : State := considerStart (endThrow p out s)

/-- A detection report of a configured point, taken (R26, R27, R37). -/
def detectionTake (p : PointId) (v : Detection) (s : State) : State :=
  let e := tget s.points p
  let s1 := { s with points := tupd s.points p fun e => { e with lastDetection := some v } }
  if e.state = .moving then
    if (e.target.map v.is).getD false then throwEnd p .succeeded s1 else s1
  else changeAtRest p (atRest e.state v) s1

/-- The configured point on a board's channel (R26). -/
def pointAt (s : State) (a : BoardIdx) (c : Channel) : Option PointId :=
  (idsWhere s.points fun e => match e.cfg with
    | none => false
    | some g => g.board == a && g.channel == c).head?

/-- A detection report of a channel (R26). -/
def detectionReport (a : BoardIdx) (c : Channel) (k : Contacts) (s : State) : State :=
  match pointAt s a c with
  | none => s
  | some p => if s.loadState = .ready then detectionTake p (contactsValue k) s else s

/-- The throw timer of a MOVING point expires (R38). -/
def throwExpires (p : PointId) (s : State) : State :=
  if (tget s.points p).state = .moving then throwEnd p .failed s else s

/-! ### The failure of a POINT board (R35) -/

/-- The configured points on a board. -/
def pointsOn (s : State) (a : BoardIdx) : List PointId := idsWhere s.points fun e => e.cfg.map (·.board) == some a

/-- The failure as one point takes it. -/
def pointFails (p : PointId) (s : State) : State :=
  match (tget s.points p).state with
  | .moving => endThrow p .unknown s
  | .unknown => s
  | _ => changeAtRest p .unknown s

/-- A queued order that the failure removed (R35): reported as a throw that ended UNKNOWN, or by the POINT event. -/
def orderLost (o : ThrowOrder) (s : State) : State :=
  match o.owner with
  | none => pointEvent o.point s
  | some r => ownedThrowEnded r o.point .unknown s

/-- A POINT board has left PRESENT (R35; log 18). -/
def pointBoardLeaves (a : BoardIdx) (s : State) : State :=
  let on := pointsOn s a
  let lost := s.throwQueue.filter fun o => on.contains o.point
  let s1 := { s with throwQueue := s.throwQueue.filter fun o => !on.contains o.point }
  considerStart (forEach lost orderLost (forEach on pointFails s1))

end Sys2Proof.Machine
end

