-- ==== Sys2Proof/Machine/RouteTable.lean ====
section
/-! DEFINITION. The route table: the layout checks (R47), the duplicate check (R48), taking a slot (R45), look-ups and
per-signal lists (R49, R50), the counts (R42), and replacing a definition (R52 to R54). -/

namespace Sys2Proof.Machine

/-! ### Look-ups (R49, R50) -/

/-- Whether a working slot is DEFINED with a pair. -/
def SlotRec.hasPair (e : SlotRec) (entrance : SignalId) (exit : RouteExit) : Bool :=
  match e.status with
  | .defined d => d.entrance == entrance && d.exit == exit
  | .absent _ => false

/-- The DEFINED slots that hold a pair; the duplicate check leaves at most one (R48). -/
def slotsWithPair (s : State) (entrance : SignalId) (exit : RouteExit) : List SlotId :=
  idsWhere s.slots fun e => e.hasPair entrance exit

/-- The answer of a look-up (R49). -/
inductive LookUp where | none | writing | found (n : SlotId) (d : RouteDef)
  deriving DecidableEq, Repr

/-- Slot look-up (R49). An ABSENT slot answers none though its writing mark is set, as R49's order has it and R53 does not
(the model's choice, log 59). -/
def slotLookUp (s : State) (n : SlotId) : LookUp :=
  match (tget s.slots n).status with
  | .absent _ => .none
  | .defined d => if (tget s.slots n).writing then .writing else .found n d

/-- Pair look-up (R49). -/
def pairLookUp (s : State) (entrance : SignalId) (exit : RouteExit) : LookUp :=
  match slotsWithPair s entrance exit with
  | [] => .none
  | n :: _ => slotLookUp s n

/-- The per-signal list (R50): the DEFINED slots whose entrance is the signal, in ascending order. -/
def signalList (s : State) (sg : SignalId) : List SlotId :=
  idsWhere s.slots fun e => match e.status with
    | .defined d => d.entrance == sg
    | .absent _ => false

/-- The number of slots whose status satisfies a test (R42). -/
def slotCount (s : State) (p : SlotStatus → Bool) : Nat := (idsWhere s.slots fun e => p e.status).length

/-- DEFINED. -/
def SlotStatus.isDefined : SlotStatus → Bool
  | .defined _ => true
  | .absent _ => false

/-- ABSENT with cause DAMAGED. -/
def SlotStatus.isDamaged (x : SlotStatus) : Bool := x == .absent .damaged

/-- ABSENT with cause INVALID or DUPLICATE. -/
def SlotStatus.isRejected : SlotStatus → Bool
  | .absent (.invalid _) => true
  | .absent (.duplicate _) => true
  | _ => false

/-! ### The layout checks (R47) -/

/-- A section is configured. -/
def sectionIn (s : State) (n : SectionId) : Bool := (tget s.sections n).cfg.isSome

/-- The kind of signal that a class of route starts at (check 9). -/
def RouteClass.kind : RouteClass → SignalKind
  | .main => .main
  | .shunt => .shunt

/-- Check 9. -/
def check9 (s : State) (d : RouteDef) : Bool := (tget s.signals d.entrance).cfg.map (·.kind) == some d.cls.kind

/-- Check 10. -/
def check10 (s : State) (d : RouteDef) : Bool :=
  match d.exit with
  | .boundary => true
  | .signal x => (tget s.signals x).cfg.isSome

/-- Check 11. -/
def check11 (s : State) (d : RouteDef) : Bool :=
  (d.approach ++ (d.path ++ d.overlap).map (·.sec)).all (sectionIn s)

/-- Check 12. -/
def check12 (s : State) (d : RouteDef) : Bool :=
  (d.path ++ d.overlap).all fun e => match e.point with
    | none => true
    | some q => (tget s.points q.point).cfg.map (·.sec) == some e.sec

/-- Check 13. -/
def check13 (s : State) (d : RouteDef) : Bool :=
  let deck := s.tt.cfg.map (·.deck)
  d.path.all (fun e => e.deck.isSome == (deck == some e.sec))
    && (d.approach ++ d.overlap.map (·.sec)).all fun n => deck != some n

/-- Check 14. -/
def check14 (s : State) (d : RouteDef) : Bool :=
  d.path.head?.map (·.sec) == (tget s.signals d.entrance).cfg.map (·.firstBeyond)

/-- Check 15. -/
def check15 (s : State) (d : RouteDef) : Bool :=
  match d.exit with
  | .boundary => true
  | .signal x =>
    let c := (tget s.signals x).cfg
    d.path.getLast?.map (·.sec) == c.map (·.berth)
      && (d.overlap.isEmpty || d.overlap.head?.map (·.sec) == c.map (·.firstBeyond))

/-- The layout checks with their numbers, in order. -/
def layoutChecks : List (Nat × (State → RouteDef → Bool)) :=
  [(9, check9), (10, check10), (11, check11), (12, check12), (13, check13), (14, check14), (15, check15)]

/-- The number of the first layout check that fails. -/
def layoutCheck (s : State) (d : RouteDef) : Option Nat :=
  (layoutChecks.find? fun nc => !nc.2 s d).map (·.1)

/-! ### Taking a slot at load (R45) -/

/-- Write the status of a working slot. -/
def setSlot (n : SlotId) (x : SlotStatus) (s : State) : State :=
  { s with slots := tupd s.slots n fun e => { e with status := x } }

/-- Step 2: the slot is DAMAGED, and STORE DAMAGED is set. -/
def damagedSlot (n : SlotId) (s : State) : State := { setSlot n (.absent .damaged) s with storeDamaged := true }

/-- The status that a stored slot with a good CRC gets (R45, steps 3 to 5). The slots already DEFINED at this load have
lower numbers. -/
def slotStatusFor (s : State) (bs : List Byte) : SlotStatus :=
  match formCheck bs with
  | .error k => .absent (.invalid k)
  | .ok d =>
    match layoutCheck s d with
    | some k => .absent (.invalid k)
    | none =>
      match slotsWithPair s d.entrance d.exit with
      | m :: _ => .absent (.duplicate m)
      | [] => .defined d

/-- The route table takes a stored slot (R45); `whole` is no for a page whose write was cut off in part (R178; log 5). -/
def takeSlot (n : SlotId) (bs : List Byte) (whole : Bool) (s : State) : State :=
  if whole = false then damagedSlot n s
  else if slotUnused bs then setSlot n (.absent .unused) s
  else if slotCrcOk bs = false then damagedSlot n s
  else setSlot n (slotStatusFor s bs) s

/-! ### Replacing a definition (R52 to R54) -/

/-- Set or clear a slot's writing mark (R53, R54). -/
def setWriting (n : SlotId) (on : Bool) (s : State) : State :=
  { s with slots := tupd s.slots n fun e => { e with writing := on } }

/-- The route table's checks of a WRITE ROUTE SLOT (R52): the refusal, or none. In NO_IMAGE only check 2 is made. -/
def slotWriteRefusal (s : State) (n : SlotId) (bs : List Byte) : Option (ResultCode × Detail) :=
  let ready := s.loadState == .ready
  match if ready then slotUser s n else none with
  | some r => some (.inUse, .item (.res r))
  | none =>
    if slotUnused bs then none
    else
      match formCheck bs with
      | .error k => some (.badRequest, .check k none)
      | .ok d =>
        if ready then
          match layoutCheck s d with
          | some k => some (.badRequest, .check k none)
          | none =>
            match (slotsWithPair s d.entrance d.exit).filter (· ≠ n) with
            | m :: _ => some (.badRequest, .check 16 (some m))
            | [] => none
        else none

/-- The working copy that replaces a slot's after a write in which every page was verified (R54). -/
def writtenStatus (bs : List Byte) : SlotStatus :=
  if slotUnused bs then .absent .unused
  else match formCheck bs with
    | .error k => .absent (.invalid k)
    | .ok d => .defined d

/-- The end of an admitted write, as the route table takes it (R54). -/
def slotWriteEnds (n : SlotId) (bs : List Byte) (verified : Bool) (s : State) : State :=
  let s1 := setWriting n false s
  if verified = true ∧ s.loadState = .ready then setSlot n (writtenStatus bs) s1 else s1

end Sys2Proof.Machine
end

