-- ==== Sys2Proof/Machine/SetRoute.lean ====
section
/-! DEFINITION. Setting a route: the checks of SET ROUTE in their order (R58 to R62), the takeover (R61), acceptance (R63),
RETRY ROUTE (R70) and SET THROUGH ROUTE (R71). -/

namespace Sys2Proof.Machine

/-! ### The checks -/

/-- The reservation that a new route takes over: its exit is the entrance signal and its overlap is not released (R61). -/
def takenOver (s : State) (entrance : SignalId) : Option ResId :=
  (liveReservations s).find? fun r => match resDef s r with
    | none => false
    | some (v, d) => d.exit == .signal entrance && !v.overlapReleased

/-- A lock with role OVERLAP. -/
def SectionLock.isOverlap (l : SectionLock) : Bool :=
  match l.role with
  | .overlap _ => true
  | .path _ => false

/-- The tests of check 7 on one section (R59): the refusal, or none. -/
def sectionRefusal (s : State) (q : Option ResId) (cls : RouteClass) (n : SectionId) : Option Reply :=
  let busy : Bool := match cls with
    | .main => occOf s n != .clear
    | .shunt => occOf s n == .unknown
  let occupied := if busy then some (naming .occupied (.sec n)) else none
  match lockOf s n with
  | none => occupied
  | some l => if l.isOverlap && some l.res == q then occupied else some (naming .conflict (.res l.res))

/-- The points that the overlap of the reservation to be taken over requires (R60). -/
def exemptPoints (s : State) (q : Option ResId) : List PointId :=
  match q.bind (resDef s) with
  | none => []
  | some (_, d) => elemPoints d.overlap

/-- The tests of check 8 on one point (R60). -/
def pointRefusal (s : State) (exempt : List PointId) (p : PointId) : Option Reply :=
  let e := tget s.points p
  let locked : Bool := match e.lock with
    | .res _ => !exempt.contains p
    | _ => false
  if locked then some (naming .locked (.point p))
  else if e.state = .moving ∨ (queuedOrder s p).isSome then some (naming .pointBusy (.point p))
  else if e.state = .failed ∨ e.state = .unknown then some (naming .itemFailed (.point p))
  else none

/-- The deck requirement of a definition (R43). -/
def deckReq (d : RouteDef) : Option DeckReq := d.path.findSome? (·.deck)

/-- Check 9 (R62). -/
def deckRefusal (s : State) (d : RouteDef) : Option Reply :=
  match deckReq d with
  | none => none
  | some q =>
    if s.tt.deckLock ≠ .free then some (naming .locked .deck)
    else if s.tt.state = .unknown ∨ s.tt.state = .failed then some (naming .itemFailed .turntable)
    else if (neededAlignment s q).isSome ∧ moveQueueSize ≤ s.tt.queue.length then some (naming .queueFull .moveQueue)
    else none

/-- The throws that a route needs (R60, check 10): the points in a known position other than the required one. -/
def throwsNeeded (s : State) (d : RouteDef) : List PointReq :=
  ((d.path ++ d.overlap).filterMap (·.point)).filter fun q =>
    let x := (tget s.points q.point).state
    (x == .normal || x == .reverse) && !x.is q.pos

/-- Check 10 (R60). -/
def roomRefusal (s : State) (throws : Nat) : Option Reply :=
  if throwQueueSize < s.throwQueue.length + throws then some (naming .queueFull .throwQueue) else none

/-- The number of live reservations of the demonstration owner. -/
def demoReservations (s : State) : Nat := (idsWhere s.reservations fun v => v.map (·.owner) == some .demo).length

/-- The FREE reservation entries in ascending order. -/
def freeReservations (s : State) : List ResId := idsWhere s.reservations (·.isNone)

/-- Check 6 (R58). -/
def tableRefusal (s : State) (o : Owner) : Option Reply :=
  if (freeReservations s).isEmpty || (o == .demo && decide (4 ≤ demoReservations s)) then
    some (naming .tableFull .reservationTable)
  else none

/-- Check 5 (R58). -/
def entranceRefusal (s : State) (d : RouteDef) : Option Reply :=
  (tget s.signals d.entrance).entranceOf.map fun r => naming .conflict (.res r)

/-- Check 7 (R59): the path sections, then the overlap sections. -/
def sectionsRefusal (s : State) (d : RouteDef) : Option Reply :=
  ((d.path ++ d.overlap).map (·.sec)).findSome? (sectionRefusal s (takenOver s d.entrance) d.cls)

/-- Check 8 (R60). -/
def pointsRefusal (s : State) (d : RouteDef) : Option Reply :=
  (elemPoints (d.path ++ d.overlap)).findSome? (pointRefusal s (exemptPoints s (takenOver s d.entrance)))

/-- Checks 5 to 10 of SET ROUTE, in order (R58 to R62): the refusal, or none. -/
def routeRefusal (s : State) (o : Owner) (d : RouteDef) : Option Reply :=
  (entranceRefusal s d).or <| (tableRefusal s o).or <| (sectionsRefusal s d).or <| (pointsRefusal s d).or <|
    (deckRefusal s d).or (roomRefusal s (throwsNeeded s d).length)

/-! ### Acceptance (R63) -/

/-- Step 1: the overlap of the reservation taken over is released (R61). Its queued orders for those points go first
(R29). -/
def takeOver (q : ResId) (s : State) : State :=
  match resDef s q with
  | none => s
  | some (_, d) => retireIfDone q (releaseOverlap q (removeOrders q (some (elemPoints d.overlap)) s))

/-- The train whose head is in the entrance signal's berth section. -/
def berthTrain (s : State) (entrance : SignalId) : Option TrainId := (berthOf s entrance).bind (headIn s)

/-- Steps 2 and 3: the new entry, and the entrance-of field. -/
def createEntry (r : ResId) (o : Owner) (n : SlotId) (d : RouteDef) (s : State) : State :=
  let v : Reservation :=
    { slot := n, owner := o, train := berthTrain s d.entrance, state := .setting, hasBeenOpen := false
      settingCursor := 0, releaseCursor := 0, overlapReleased := d.overlap.isEmpty, approachTimer := none
      overlapTimer := none, emergencyTimer := none, demoHold := none, fault := .clean, releaseOrigin := none }
  { setRes r (some v) s with signals := tupd s.signals d.entrance fun e => { e with entranceOf := some r } }

/-- Step 4: the section locks. -/
def lockSections (r : ResId) (d : RouteDef) (s : State) : State :=
  let s1 := forEach d.path.zipIdx (fun ek => lockSection ek.1.sec r (.path ek.2)) s
  forEach d.overlap.zipIdx (fun ek => lockSection ek.1.sec r (.overlap ek.2)) s1

/-- Step 5: the point locks. -/
def lockPoints (r : ResId) (d : RouteDef) (s : State) : State :=
  forEach (elemPoints (d.path ++ d.overlap)) (fun p => lockPoint p r) s

/-- Append the throws of a reservation (R30). -/
def appendThrows (r : ResId) (l : List PointReq) (s : State) : State :=
  forEach l (fun q => appendOrder ⟨q.point, q.pos, some r⟩) s

/-- Steps 6 to 8: the deck is taken, the throws are appended, and the deck move is placed. -/
def startWork (r : ResId) (d : RouteDef) (throws : List PointReq) (g : Option RoadId) (s : State) : State :=
  let s6 := if (deckReq d).isSome then takeDeck r s else s
  let s7 := appendThrows r throws s6
  match g with
  | none => s7
  | some g => placeMove r g s7

/-- The acceptance of SET ROUTE (R63). -/
def acceptRoute (r : ResId) (o : Owner) (n : SlotId) (d : RouteDef) (s : State) : State :=
  let throws := throwsNeeded s d
  let g := (deckReq d).bind (neededAlignment s)
  let s1 := createEntry r o n d s
  recheck r (startWork r d throws g (lockPoints r d (lockSections r d s1)))

/-- The state of a reservation, as a reply shows it. -/
def resStateOf (s : State) (r : ResId) : ResState := ((getRes s r).map (·.state)).getD .setting

/-- SET ROUTE after its definition has been found and its territory check passed (R58, checks 5 to 10, and R63). -/
def setFound (o : Owner) (n : SlotId) (d : RouteDef) (s : State) : Handled :=
  match routeRefusal s o d with
  | some y => unchanged s y
  | none =>
    let s1 := match takenOver s d.entrance with
      | none => s
      | some q => takeOver q s
    match freeReservations s1 with
    | [] => unchanged s (naming .tableFull .reservationTable)
    | r :: _ =>
      let s2 := acceptRoute r o n d s1
      (⟨.accepted, .created r (resStateOf s2 r)⟩, s2)

/-- SET ROUTE with its entrance and exit (R58): checks 3 to 10. `code` is the request's, for the refusal record. -/
def setPair (st : StationId) (code : Byte) (entrance : SignalId) (exit : RouteExit) (s : State) : Handled :=
  match pairLookUp s entrance exit with
  | .none => unchanged s (plain .noSuchRoute)
  | .writing => unchanged s (plain .busy)
  | .found n d =>
    if passesTerritory s (.station st) (·.signal entrance) then setFound (.station st) n d s
    else territoryRefused st code (.signal entrance) s

/-- SET ROUTE as the demonstration unit makes it, naming a slot (R58, R146). -/
def setSlotRoute (n : SlotId) (s : State) : Handled :=
  match slotLookUp s n with
  | .none => unchanged s (plain .noSuchRoute)
  | .writing => unchanged s (plain .busy)
  | .found n d => setFound .demo n d s

/-- The exit that a request names, if it is well formed (R58, check 2). -/
def exitParam : ExitParam → Option RouteExit
  | .signal n => (toId 128 n).map .signal
  | .boundary => some .boundary
  | .other => none

/-- SET ROUTE from a station, in READY (R58 to R63). -/
def handleSetRoute (st : StationId) (entrance : Nat) (exit : ExitParam) (s : State) : Handled :=
  match toId 128 entrance, exitParam exit with
  | some a, some x => setPair st codeSetRoute a x s
  | _, _ => unchanged s (plain .badRequest)

/-! ### SET THROUGH ROUTE (R71) -/

/-- What the legs have come to: the reservations created, and the refusal that stopped them. -/
structure Legs where
  created : List ResId
  refused : Option Reply
  after : State

/-- The reservation that an accepted leg created. -/
def Reply.createdRes (y : Reply) : Option ResId :=
  match y.detail with
  | .created r _ => some r
  | _ => none

/-- A leg's answer, and the legs that follow it if it was accepted. -/
def Legs.cons (x : Handled) (rest : State → Legs) : Legs :=
  match x.1.createdRes with
  | some r => { rest x.2 with created := r :: (rest x.2).created }
  | none => ⟨[], some x.1, x.2⟩

/-- Take the legs one after another, up to the first refusal. -/
def takeLegs (st : StationId) : List (SignalId × SignalId) → State → Legs
  | [], s => ⟨[], none, s⟩
  | l :: rest, s => Legs.cons (setPair st codeSetThroughRoute l.1 (.signal l.2) s) (takeLegs st rest)

/-- The item that a refusal's detail names. -/
def Reply.item (y : Reply) : Option ItemRef :=
  match y.detail with
  | .item x => some x
  | _ => none

/-- SET THROUGH ROUTE in READY (R71). -/
def handleSetThrough (st : StationId) (signals : List Nat) (s : State) : Handled :=
  match signals.mapM (toId 128) with
  | none => unchanged s (plain .badRequest)
  | some l =>
    if 2 ≤ l.length ∧ l.length ≤ 5 then
      let legs := l.zip (l.drop 1)
      let t := takeLegs st legs s
      let residue := legs.length - t.created.length
      match t.refused with
      | none => (⟨.done, .through t.created 0 none none⟩, t.after)
      | some y => (⟨y.result, .through t.created residue (some t.created.length) y.item⟩, t.after)
    else unchanged s (plain .badRequest)

/-! ### RETRY ROUTE (R70) -/

/-- Whether a throw is gathered for a point requirement (R70). -/
def needsRetry (s : State) (q : PointReq) : Bool :=
  let e := tget s.points q.point
  let away : Bool := match e.cfg with
    | none => true
    | some c => !boardPresent s c.board
  e.state != .moving && (queuedOrder s q.point).isNone &&
    (e.state == .failed || ((e.state == .normal || e.state == .reverse) && !e.state.is q.pos)
      || (e.state == .unknown && !away))

/-- The throws gathered, from the setting cursor on. -/
def retryThrows (s : State) (v : Reservation) (d : RouteDef) : List PointReq :=
  (((reqElems v d).drop v.settingCursor).filterMap (·.point)).filter (needsRetry s)

/-- The target of the deck move gathered, if there is one. -/
def retryMove (s : State) (r : ResId) (v : Reservation) (d : RouteDef) : Option RoadId :=
  match ((reqElems v d).drop v.settingCursor).findSome? (·.deck), s.tt.position with
  | some q, some p =>
    if s.tt.deckLock = .held r ∧ s.tt.state = .idle ∧ q.accepts p = false ∧ moveQueued s r = false then some (q.target p)
    else none
  | _, _ => none

/-- The work of an accepted RETRY ROUTE. -/
def retryWork (r : ResId) (throws : List PointReq) (g : Option RoadId) (s : State) : State :=
  let s1 := appendThrows r throws s
  let s2 := match g with
    | none => s1
    | some g => placeMove r g s1
  recheck r (updRes r (fun v => { v with fault := .clean }) s2)

/-- RETRY ROUTE for a reservation in SETTING (R70). -/
def retrySetting (r : ResId) (v : Reservation) (d : RouteDef) (s : State) : Handled :=
  let throws := retryThrows s v d
  let g := retryMove s r v d
  if throwQueueSize < s.throwQueue.length + throws.length then unchanged s (naming .queueFull .throwQueue)
  else if g.isSome ∧ moveQueueSize ≤ s.tt.queue.length then unchanged s (naming .queueFull .moveQueue)
  else if throws = [] ∧ g = none then unchanged s (plain .done)
  else (⟨.accepted, .retried throws.length g.isSome⟩, retryWork r throws g s)

/-- Whether a station may act on a reservation as its owner or as the supervisor (R70, R80). -/
def ownsOrSupervises (st : StationId) (v : Reservation) : Bool := st == supervisor || v.owner == .station st

/-- RETRY ROUTE in READY (R70). -/
def handleRetry (st : StationId) (res : Nat) (s : State) : Handled :=
  match toId 64 res with
  | none => unchanged s (plain .badRequest)
  | some r =>
    match resDef s r with
    | none => unchanged s (naming .noSuchItem (.res r))
    | some (v, d) =>
      if ownsOrSupervises st v = false then unchanged s (plain .notPermitted)
      else if v.state ≠ .setting then unchanged s (wrongState (.res v.state))
      else retrySetting r v d s

end Sys2Proof.Machine
end

