-- ==== Sys2Proof/Machine/Demo.lean ====
section
/-! DEFINITION. The demonstration unit: button levels and presses (R145, R146), the demonstration move call (R127), the
timers of a button (R146, R147) and open-day mode (R148). -/

namespace Sys2Proof.Machine

/-- The lamp timer: 3 s (R146). -/
def lampTime : Nat := 3000

/-- A DEMO move. -/
def Move.isDemo (m : Move) : Bool :=
  match m.kind with
  | .demo _ => true
  | _ => false

/-- The most DEMO moves that the queue may hold (R113). -/
def demoMoves : Nat := 2

/-- Whether the demonstration move call is refused (R127). -/
def demoRefused (s : State) (g : RoadId) : Bool :=
  let demos := s.tt.queue.filter Move.isDemo
  s.tt.cfg.isNone || s.tt.state == .unknown || s.tt.state == .failed || s.tt.deckLock != .free
    || decide (moveQueueSize ≤ s.tt.queue.length) || decide (demoMoves ≤ demos.length)
    || demos.any fun m => m.target == some g

/-- A button goes NOT_NOW, with its lamp timer (R146). -/
def goNotNow (b : ButtonId) (s : State) : State :=
  setButtonState b .notNow { s with buttons := tupd s.buttons b fun e => { e with lampTimer := some lampTime } }

/-- A button goes BUSY (R146). -/
def goBusy (b : ButtonId) (w : BusyWith) (s : State) : State :=
  setButtonState b .busy { s with buttons := tupd s.buttons b fun e => { e with busyWith := some w } }

/-- A TURNTABLE button acts (R127, R146). The button is BUSY before the start is considered, so that it hears of a move
that ends at once (log 35). -/
def actTurntable (b : ButtonId) (g : RoadId) (s : State) : State :=
  if demoRefused s g then goNotNow b s
  else
    let n := s.tt.nextMoveNo
    let m : Move := ⟨n, .demo b, some g, none, none⟩
    considerMove (goBusy b (.move n) (setQueue (s.tt.queue ++ [m]) (takeMoveNo s).2))

/-- A ROUTE button acts (R146). -/
def actRoute (b : ButtonId) (n : SlotId) (s : State) : State :=
  let (y, s1) := setSlotRoute n s
  match y.createdRes with
  | some r => goBusy b (.res r) s1
  | none => goNotNow b s1

/-- A READY button acts (R146). -/
def act (b : ButtonId) (s : State) : State :=
  match (tget s.buttons b).cfg with
  | none => s
  | some c => match c.kind with
    | .turntable j e => actTurntable b (endPosition j e) s
    | .route n => actRoute b n s

/-- A press (R146). -/
def press (b : ButtonId) (s : State) : State :=
  match (tget s.buttons b).state with
  | .ready => act b s
  | .cooldown => { s with buttons := tupd s.buttons b fun e => { e with cooldownTimer := some (cooldownOf s b) } }
  | .off | .busy | .notNow => s

/-- The configured button on a board's channel (R145). -/
def buttonAt (s : State) (a : BoardIdx) (c : Channel) : Option ButtonId :=
  (idsWhere s.buttons fun e => match e.cfg with
    | none => false
    | some g => g.board == a && g.channel == c).head?

/-- The level of a button, taken: RELEASED then PRESSED is a press (R145). -/
def levelTake (b : ButtonId) (pressed : Bool) (s : State) : State :=
  let s1 := { s with buttons := tupd s.buttons b fun e => { e with lastLevel := some pressed } }
  if (tget s.buttons b).lastLevel = some false ∧ pressed = true then press b s1 else s1

/-- A report of a button input (R145). -/
def buttonReport (a : BoardIdx) (c : Channel) (pressed : Bool) (s : State) : State :=
  match buttonAt s a c with
  | none => s
  | some b => if s.loadState = .ready then levelTake b pressed s else s

/-- The BUTTON board has left PRESENT: each of its buttons has last level none (R145). -/
def buttonBoardLeaves (a : BoardIdx) (s : State) : State :=
  forEach (idsWhere s.buttons fun e => e.cfg.map (·.board) == some a) (fun b s =>
    { s with buttons := tupd s.buttons b fun e => { e with lastLevel := none } }) s

/-! ### Open-day mode (R148) -/

/-- A button goes OFF. -/
def goOff (b : ButtonId) (s : State) : State :=
  setButtonState b .off { s with buttons := tupd s.buttons b fun e => { e with
    busyWith := none, lampTimer := none, cooldownTimer := none } }

/-- Open-day mode goes on: every configured button goes READY. -/
def openDayOn (s : State) : State :=
  forEach (idsWhere s.buttons fun e => e.cfg.isSome) (fun b => setButtonState b .ready) { s with openDay := true }

/-- The demonstration reservations that leaving open-day mode cancels. -/
def demoToCancel (s : State) : List ResId :=
  idsWhere s.reservations fun v => match v with
    | none => false
    | some v => v.owner == .demo && (v.state == .setting || v.state == .proved || v.state == .opened)

/-- Open-day mode goes off: the buttons go OFF, the queued DEMO moves are removed, and the demonstration reservations are
cancelled. -/
def openDayOff (s : State) : Handled :=
  let s1 := forEach (List.finRange 8) goOff { s with openDay := false }
  let demos := s1.tt.queue.filter Move.isDemo
  let s2 := if demos.isEmpty then s1 else considerMove (setQueue (s1.tt.queue.filter fun m => !m.isDemo) s1)
  let l := demoToCancel s2
  (⟨.done, .openDayOff demos.length l.length⟩, forEach l cancel s2)

/-- SET OPEN DAY in READY (R148). -/
def handleSetOpenDay (st : StationId) (value : Option Bool) (s : State) : Handled :=
  if st ≠ supervisor then unchanged s (plain .notPermitted)
  else match value with
    | none => unchanged s (plain .badRequest)
    | some x =>
      if x = s.openDay then unchanged s (plain .done)
      else if x then (plain .done, openDayOn s)
      else openDayOff s

/-- One button as READ BUTTONS shows it (R149). One that is not configured shows the kind none, the cooldown none and its
board as not PRESENT (the model's choice, log 64). -/
def buttonView (s : State) (b : ButtonId) : ButtonView :=
  let e := tget s.buttons b
  { kind := e.cfg.map (·.kind), cooldown := e.cfg.map (·.cooldown), state := e.state, busyWith := e.busyWith
    lamp := e.lampTimer.tenths, rest := e.cooldownTimer.tenths
    boardPresent := (e.cfg.map fun c => boardPresent s c.board).getD false }

/-- READ BUTTONS in READY (R149). -/
def handleReadButtons (s : State) : Handled :=
  unchanged s ⟨.done, .buttons s.openDay ((List.finRange 8).map (buttonView s))⟩

end Sys2Proof.Machine
end

