-- ==== Sys2Proof/Machine/FieldLink.lean ====
section
/-! DEFINITION. The field link controller: what is sent next (R152 to R154, R156), answers and misses (R151, R155), the
departure and return of a board with what its owners do (R156, R157), and the hand-off of inputs (R152, R153). -/

namespace Sys2Proof.Machine

/-! ### The owners' rules (R157) -/

/-- The configured sections on a DETECTOR board. -/
def sectionsOn (s : State) (a : BoardIdx) : List SectionId := idsWhere s.sections fun e => e.cfg.map (·.board) == some a

/-- A DETECTOR board has left PRESENT: its sections that were not held become held (R6). -/
def detectorBoardLeaves (a : BoardIdx) (s : State) : State :=
  forEach ((sectionsOn s a).filter fun n => match (tget s.sections n).cfg with
    | none => false
    | some c => (tget s.districts c.district).state == .normal) holdSection s

/-- The configured signals on a SIGNAL board. -/
def signalsOn (s : State) (a : BoardIdx) : List SignalId := idsWhere s.signals fun e => e.cfg.map (·.board) == some a

/-- A signal's controlled field changes: its aspect is derived, and the interlocking tests the reservation from it
(R23, R66). -/
def setControlled (x : Bool) (sg : SignalId) (s : State) : State :=
  let s1 := deriveSignal sg { s with signals := tupd s.signals sg fun e => { e with controlled := x } }
  match (tget s1.signals sg).entranceOf with
  | none => s1
  | some r => testOpen r s1

/-- The configured districts on a DISTRICT board. -/
def districtsOn (s : State) (a : BoardIdx) : List DistrictId := idsWhere s.districts fun e => e.cfg.map (·.board) == some a

/-- The departure boards whose DISPLAY board is the named one (R132). -/
def depBoardsOn (s : State) (a : BoardIdx) : List DepBoardId := idsWhere s.depBoards fun e => e.addr == some a

/-- A DISPLAY board has returned: all 8 lines are marked (R139). -/
def displayBoardReturns (a : BoardIdx) (s : State) : State :=
  forEach (depBoardsOn s a) (fun b s =>
    { s with depBoards := tupd s.depBoards b fun e => { e with lines := tmap (fun l => { l with mark := true }) e.lines } }) s

/-- A board has left PRESENT, as its owner takes it (R157). -/
def ownersLeave (a : BoardIdx) (s : State) : State :=
  match (tget s.boards a).type with
  | none => s
  | some .detector => detectorBoardLeaves a s
  | some .point => pointBoardLeaves a s
  | some .signal => forEach (signalsOn s a) (setControlled false) s
  | some .district => forEach (districtsOn s a) districtBoardLeaves s
  | some .turntable => turntableBoardLeaves a s
  | some .display => s
  | some .button => buttonBoardLeaves a s

/-- A board has become PRESENT, as its owner takes it (R157). -/
def ownersReturn (a : BoardIdx) (s : State) : State :=
  match (tget s.boards a).type with
  | some .signal => forEach (signalsOn s a) (setControlled true) s
  | some .district => forEach (districtsOn s a) districtBoardReturns s
  | some .turntable => turntableBoardReturns a s
  | some .display => displayBoardReturns a s
  | _ => s

/-! ### Handing inputs to the owners (R152; log 8) -/

/-- The section on one input of a board, among those on the board. -/
def sectionOnInput (s : State) (on : List SectionId) (i : InputNo) : Option SectionId :=
  on.find? fun n => (tget s.sections n).cfg.map (·.input) == some i

/-- The district on one channel of a board. -/
def districtOnChannel (s : State) (on : List DistrictId) (c : Channel) : Option DistrictId :=
  on.find? fun d => (tget s.districts d).cfg.map (·.channel) == some c

/-- Detector inputs, in ascending input order (R2). -/
def handDetector (a : BoardIdx) (active : Vector Bool 16) (s : State) : State :=
  let on := sectionsOn s a
  forEach (List.finRange 16) (fun i s => match sectionOnInput s on i with
    | none => s
    | some n => detectorReport n (tget active i) s) s

/-- Booster fault inputs, in ascending channel order (R12). -/
def handFaults (a : BoardIdx) (fault : Vector Bool 8) (s : State) : State :=
  let on := districtsOn s a
  forEach (List.finRange 8) (fun c s => match districtOnChannel s on c with
    | none => s
    | some d => faultReport d (tget fault c) s) s

/-- The whole input image of a board goes to the owner of its channels (R150, R152). -/
def handInputs (a : BoardIdx) (i : BoardInputs) (s : State) : State :=
  match i with
  | .detector active => handDetector a active s
  | .point contacts => forEach (List.finRange 8) (fun c => detectionReport a c (tget contacts c)) s
  | .signal => s
  | .district fault => handFaults a fault s
  | .turntable t => turntableReport a t s
  | .display => s
  | .button pressed => forEach (List.finRange 8) (fun c => buttonReport a c (tget pressed c)) s

/-! ### What is sent next (R152) -/

/-- Change the field link controller's record. -/
def setLink (f : FieldLink → FieldLink) (s : State) : State := { s with fieldLink := f s.fieldLink }

/-- Change a board's record. -/
def setBoard (a : BoardIdx) (f : BoardRec → BoardRec) (s : State) : State := { s with boards := tupd s.boards a f }

/-- A board is configured and PRESENT. -/
def servesBoard (s : State) (a : BoardIdx) : Bool := (tget s.boards a).type.isSome && boardPresent s a

/-- Send a REFRESH; a GRANT may then be sent again (R153). -/
def sendRefresh (a : BoardIdx) (s : State) : State := setLink (fun l => { l with outstanding := .refresh a, grantSent := false }) s

/-- The boards refreshed in round-robin order: configured, and PRESENT or UNKNOWN (R152). -/
def refreshable (s : State) : List BoardIdx := idsWhere s.boards fun e => e.type.isSome && e.state != .failed

/-- The next board in ascending order after the last one, and the lowest after the highest (R152). -/
def nextBoard (s : State) : Option BoardIdx :=
  let l := refreshable s
  match s.fieldLink.lastRefreshed with
  | none => l.head?
  | some a => (l.find? fun b => decide (a < b)).or l.head?

/-- The next REFRESH in round-robin order; nothing if no board is refreshed. -/
def sendRoundRobin (s : State) : State :=
  match nextBoard s with
  | none => setLink (fun l => { l with outstanding := .quiet }) s
  | some a => sendRefresh a (setLink (fun l => { l with lastRefreshed := some a }) s)

/-- The lowest FAILED board whose re-poll is due (R156). -/
def repollBoard (s : State) : Option BoardIdx :=
  (idsWhere s.boards fun e => e.type.isSome && e.state == .failed && e.repollDue).head?

/-- The re-polls that are due, and otherwise the round-robin. -/
def sendRepoll (s : State) : State :=
  match repollBoard s with
  | some a => sendRefresh a (setBoard a (fun b => { b with repollDue := false }) s)
  | none => sendRoundRobin s

/-- The lowest-numbered marked line of the departure board on a DISPLAY board (R154). -/
def markedLine (s : State) (a : BoardIdx) : Option (LineNo × List Byte) :=
  (depBoardsOn s a).findSome? fun b =>
    ((idsWhere (tget s.depBoards b).lines (·.mark)).head?).map fun n => (n, (tget (tget s.depBoards b).lines n).text)

/-- Send the first LINE exchange that the good IMAGEs of some DISPLAY boards call for (R154), and otherwise what follows it
in R152's order. -/
def sendLineOf : List BoardIdx → State → State
  | [], s => sendRepoll (setLink (fun l => { l with lineDue := [] }) s)
  | a :: rest, s =>
    match (if servesBoard s a then markedLine s a else none) with
    | some (n, t) => setLink (fun l => { l with lineDue := rest, outstanding := .line a n t }) s
    | none => sendLineOf rest s

/-- The LINE exchange that is due, and otherwise what follows it in R152's order (log 58). -/
def sendLine (s : State) : State := sendLineOf s.fieldLink.lineDue s

/-- The out-of-turn REFRESH of a board that has become PRESENT, and otherwise what follows it (R156; log 16). -/
def sendReturned (s : State) : State :=
  match s.fieldLink.returned.filter (servesBoard s) with
  | a :: rest => sendRefresh a (setLink (fun l => { l with returned := rest }) s)
  | [] => sendLine (setLink (fun l => { l with returned := [] }) s)

/-- An exchange or a grant has ended: the first of the sends that is due is made (R152, R153). -/
def sendNext (s : State) : State :=
  if s.fieldLink.attention && !s.fieldLink.grantSent then
    setLink (fun l => { l with outstanding := .grant, grantSent := true }) s
  else sendReturned s

/-- An exchange ends, with the attention line as it then stands (R153; log 28). -/
def exchangeEnds (attention : Bool) (s : State) : State := sendNext (setLink (fun l => { l with attention := attention }) s)

/-- Begin sending if nothing is outstanding. No exchange has ended, so no GRANT is called for. -/
def startSending (s : State) : State := if s.fieldLink.outstanding = .quiet then sendReturned s else s

/-! ### Misses, departures and returns (R155, R156) -/

/-- The re-poll timer: 500 ms (R155). -/
def boardRepollTime : Nat := 500

/-- The BOARD event (R151, R155, R156). -/
def boardEvent (s : State) : State := setFlag .board supervisor s

/-- A third miss: the board goes FAILED, and a departure from PRESENT is handed to its owner (R155). -/
def boardFails (a : BoardIdx) (s : State) : State :=
  let s1 := boardEvent (setBoard a (fun b => { b with state := .failed, missCount := 3, repollTimer := some boardRepollTime, repollDue := false }) s)
  if boardPresent s a then ownersLeave a s1 else s1

/-- A miss (R155, R156). Every miss on a re-poll restarts the re-poll timer, a bad answer and a good IMAGE of the wrong type
as well as none (the model's choice, log 65). -/
def boardMiss (a : BoardIdx) (s : State) : State :=
  let b := tget s.boards a
  if b.type = none then s
  else if b.state = .failed then setBoard a (fun b => { b with repollTimer := some boardRepollTime }) s
  else if b.missCount + 1 < 3 then setBoard a (fun b => { b with missCount := b.missCount + 1 }) s
  else boardFails a s

/-- A board becomes PRESENT (R156). -/
def boardReturns (a : BoardIdx) (s : State) : State :=
  let s1 := setLink (fun l => { l with returned := l.returned ++ [a] })
    (setBoard a (fun b => { b with state := .present, missCount := 0, repollTimer := none, repollDue := false }) s)
  let s2 := ownersReturn a s1
  if (tget s.boards a).state = .failed then boardEvent s2 else s2

/-- A good answer of the configured type (R151, R152, R156): the mismatch mark is cleared; a PRESENT board's inputs are
handed on, and any other board becomes PRESENT with its inputs discarded. -/
def goodInputs (a : BoardIdx) (i : BoardInputs) (s : State) : State :=
  let s1 := setBoard a (fun b => { b with mismatch := false }) s
  if boardPresent s a then handInputs a i (setBoard a (fun b => { b with missCount := 0 }) s1) else boardReturns a s1

/-- A good IMAGE of the wrong type (R151): the mismatch mark, the BOARD event if it was not set, and a miss. -/
def wrongType (a : BoardIdx) (s : State) : State :=
  let s1 := if (tget s.boards a).mismatch then s else boardEvent (setBoard a (fun b => { b with mismatch := true }) s)
  boardMiss a s1

/-- After the good IMAGE of a PRESENT DISPLAY board a LINE exchange may be due (R154). Where that of another board is still
due, both are sent, in the order in which the IMAGEs came (log 58). -/
def askLine (a : BoardIdx) (s : State) : State :=
  if (tget s.boards a).type = some .display ∧ boardPresent s a = true then
    setLink (fun l => { l with lineDue := if a ∈ l.lineDue then l.lineDue else l.lineDue ++ [a] }) s
  else s

/-- A good IMAGE answers the REFRESH of its board. -/
def imageAnswers (a : BoardIdx) (i : BoardInputs) (s : State) : State :=
  match (tget s.boards a).type with
  | none => s
  | some t => if i.type = t then goodInputs a i (askLine a s) else wrongType a s

/-- The board that the outstanding exchange is with. -/
def Exchange.board : Exchange → Option BoardIdx
  | .refresh a => some a
  | .line a _ _ => some a
  | .quiet | .grant => none

/-- The outstanding exchange ends without a good answer (R151, R155). -/
def exchangeMissed (attention : Bool) (s : State) : State :=
  match s.fieldLink.outstanding.board with
  | none => s
  | some a => exchangeEnds attention (boardMiss a s)

/-- The grant ends (R153). -/
def grantEnds (s : State) : State := if s.fieldLink.outstanding = .grant then sendNext s else s

/-- A board's address is configured. -/
def boardKnown (s : State) (a : BoardIdx) : Bool := (tget s.boards a).type.isSome

/-- An IMAGE frame from a board (R151, R152; log 21). From an address that is not configured it is discarded (R150). -/
def takeImage (a : BoardIdx) (i : BoardInputs) (attention : Bool) (s : State) : State :=
  if boardKnown s a = false then s
  else match s.fieldLink.outstanding with
    | .quiet => s
    | .grant => grantEnds s
    | x => if x = .refresh a then exchangeEnds attention (imageAnswers a i s) else exchangeMissed attention s

/-- A REPORT frame from a board (R153; log 21). Under a grant one from an address that is not configured, or of the wrong
type, is discarded and ends the grant. -/
def takeReport (a : BoardIdx) (i : BoardInputs) (s : State) : State :=
  match s.fieldLink.outstanding with
  | .quiet => s
  | .grant => grantEnds (if (tget s.boards a).type = some i.type then goodInputs a i s else s)
  | _ => if boardKnown s a then exchangeMissed s.fieldLink.attention s else s

/-- The display unit is told that a line is confirmed: the mark goes if the line still reads as sent (R154). -/
def lineConfirmed (a : BoardIdx) (n : LineNo) (t : List Byte) (s : State) : State :=
  forEach (depBoardsOn s a) (fun b s =>
    if (tget (tget s.depBoards b).lines n).text = t then
      { s with depBoards := tupd s.depBoards b fun e => { e with lines := tupd e.lines n fun l => { l with mark := false } } }
    else s) s

/-- A LINE TAKEN frame from a board (R151, R154; log 21). From an address that is not configured it is discarded
(R150). A good one sets the miss count to 0 and leaves the mismatch mark (the model's choice, log 60). -/
def takeLineTaken (a : BoardIdx) (n : LineNo) (attention : Bool) (s : State) : State :=
  if boardKnown s a = false then s
  else match s.fieldLink.outstanding with
    | .quiet => s
    | .grant => grantEnds s
    | .refresh _ => exchangeMissed attention s
    | .line b m t =>
      if b = a ∧ m = n then
        exchangeEnds attention (lineConfirmed a n t (setBoard a (fun b => { b with missCount := 0 }) s))
      else exchangeMissed attention s

/-- The re-poll timer of a FAILED board expires: its REFRESH is due, and is sent at once on a quiet line (R152, R156). -/
def boardRepollExpires (a : BoardIdx) (s : State) : State :=
  if (tget s.boards a).repollTimer = none then s
  else startSending (setBoard a (fun b => { b with repollTimer := none, repollDue := true }) s)

end Sys2Proof.Machine
end

