-- ==== Sys2Proof/Machine/Panel.lean ====
section
/-! DEFINITION. The panel link controller: polling (R161), misses and returns of a station (R163), and the taking of a
request up to its response (R162, R165). -/

namespace Sys2Proof.Machine

/-- The re-poll timer of an ABSENT station: 2 s (R163). -/
def stationRepollTime : Nat := 2000

/-- Change a station's record. -/
def setStation (st : StationId) (f : StationRec → StationRec) (s : State) : State :=
  { s with stations := tupd s.stations st f }

/-- Change the panel link controller's record. -/
def setPanel (f : PanelLink → PanelLink) (s : State) : State := { s with panelLink := f s.panelLink }

/-- The STATION event (R163). -/
def stationEvent (s : State) : State := setFlag .station supervisor s

/-! ### Polling (R161) -/

/-- The enrolled PRESENT stations, in ascending order. -/
def polledStations (s : State) : List StationId :=
  (List.finRange 15).filter fun st => isEnrolled s st && (tget s.stations st).present

/-- The enrolled ABSENT stations whose re-poll is due, in ascending order. -/
def dueStations (s : State) : List StationId :=
  (List.finRange 15).filter fun st => isEnrolled s st && (tget s.stations st).repollDue

/-- The next station in ascending order after the last one, and the lowest after the highest. -/
def nextStation (s : State) : Option StationId :=
  let l := polledStations s
  match s.panelLink.lastPolled with
  | none => l.head?
  | some a => (l.find? fun b => decide (a < b)).or l.head?

/-- The line is free: a due re-poll goes first, otherwise the round-robin continues (R161). No POLL is sent between the
response to LAYOUT RESET and the reset itself (R174; log 12). -/
def nextPoll (s : State) : State :=
  if s.layoutResetDue then setPanel (fun p => { p with polled := none }) s
  else match dueStations s with
    | st :: _ => setPanel (fun p => { p with polled := some st }) (setStation st (fun e => { e with repollDue := false }) s)
    | [] => match nextStation s with
      | none => setPanel (fun p => { p with polled := none }) s
      | some st => setPanel (fun p => { p with polled := some st, lastPolled := some st }) s

/-- A good reply (R161, R163): the count becomes 0, and an ABSENT station is PRESENT again. -/
def goodReply (st : StationId) (s : State) : State :=
  let s1 := setStation st (fun e => { e with present := true, missCount := 0, repollTimer := none, repollDue := false }) s
  if (tget s.stations st).present then s1 else stationEvent s1

/-- A miss of the station polled (R163); a station that has stopped being enrolled since its POLL counts none (R160). -/
def stationMiss (st : StationId) (s : State) : State :=
  let e := tget s.stations st
  if e.present = false ∨ isEnrolled s st = false then s
  else if e.missCount + 1 < 3 then setStation st (fun e => { e with missCount := e.missCount + 1 }) s
  else stationEvent (setStation st (fun e => { e with present := false, missCount := 3, repollTimer := some stationRepollTime, repollDue := false }) s)

/-- The POLL that is outstanding ends without a good reply (R161). -/
def pollMissed (s : State) : State :=
  match s.panelLink.polled with
  | none => s
  | some st => nextPoll (stationMiss st s)

/-- The re-poll timer of an ABSENT station expires (R161): it restarts, and the station is polled next, at once if the
line is free. -/
def stationRepollExpires (st : StationId) (s : State) : State :=
  if (tget s.stations st).repollTimer = none then s
  else
    let s1 := setStation st (fun e => { e with repollTimer := some stationRepollTime, repollDue := true }) s
    if s.panelLink.polled = none then nextPoll s1 else s1

/-! ### Replies to a poll (R161, R162) -/

/-- A reply frame of a station: bytes that arrive while no POLL is outstanding are discarded (R159), and the frame of a
station that was not polled is not good. -/
def replyFrom (st : StationId) (f : State → State) (s : State) : State :=
  if s.panelLink.polled = none then s
  else if s.panelLink.polled = some st then f (goodReply st s)
  else pollMissed s

/-- A good IDLE ends the exchange (R161). -/
def takeIdle (st : StationId) (s : State) : State := replyFrom st nextPoll s

/-- Send the response: its events-pending bit shows the flags after the request's own effects (R162). -/
def respond (st : StationId) (tag code : Byte) (y : Reply) (s : State) : State :=
  nextPoll (setPanel (fun p => { p with response := some ⟨st, tag, code, y.result, anyFlag s st, y.detail⟩ }) s)

/-- The NOT READY refusal of the load-state rule (R165). -/
def notReady (s : State) : Handled := unchanged s ⟨.notReady, .loadState s.loadState⟩

/-- A request taken in every load state (R165). -/
def always (h : State → Handled) (s : State) : Handled := h s

/-- A request taken in READY only (R165). -/
def whenReady (h : State → Handled) (s : State) : Handled := if s.loadState = .ready then h s else notReady s

/-- A request taken in READY and in NO_IMAGE (R165). -/
def whenNotLoading (h : State → Handled) (s : State) : Handled := if s.loadState = .loading then notReady s else h s

/-- A good REQUEST is taken as one request and answered with one response before any other poll (R161, R162). -/
def takeRequest (st : StationId) (tag code : Byte) (h : State → Handled) (s : State) : State :=
  replyFrom st (fun s1 => respond st tag code (h s1).1 (h s1).2) s

end Sys2Proof.Machine
end

