-- ==== Sys2Proof/Machine/Store.lean ====
section
/-! DEFINITION. The geometry store and its writes: the store map, the header (10, "Store header and store map"), admitting
a write (R177), its pages (R177), its abandonment (R178), and READ STORE (R179). -/

namespace Sys2Proof.Machine

/-! ### The store map -/

/-- The store address and the length of a config block's area. -/
def blockArea : Fin 9 → Nat × Nat
  | 0 => (0x0040, 0x800)
  | 1 => (0x0840, 0x400)
  | 2 => (0x0C40, 0x400)
  | 3 => (0x1040, 0x40)
  | 4 => (0x1080, 0x80)
  | 5 => (0x1100, 0x100)
  | 6 => (0x1200, 0x40)
  | 7 => (0x1240, 0x40)
  | 8 => (0x1280, 0x40)

/-- The address of a route slot's page. -/
def slotAddress (n : SlotId) : Nat := 0x8000 + 64 * n.val

/-- The number of pages in a block's area. -/
def blockPages (k : Fin 9) : Nat := (blockArea k).2 / pageSize

/-- The address of a page that a write concerns. -/
def StorePage.address : StorePage → Nat
  | .header => 0
  | .slot n => slotAddress n
  | .config k p => (blockArea k).1 + pageSize * p

/-- The bytes of a block's area as the store holds them. -/
def areaBytes (s : State) (k : Fin 9) : List Byte := memReads s.store (blockArea k).1 (blockArea k).2

/-- The 64 bytes of a page as the store holds them. -/
def pageBytes (s : State) (a : Nat) : List Byte := memReads s.store a pageSize

/-- The bytes of the header page. -/
def headerBytes (s : State) : List Byte := pageBytes s 0

/-- Whether no page of an area was left written in part (R178; log 5), since the area's CRC was last worked out. Pages are
named by their number in the store. -/
def areaWhole (s : State) (a len : Nat) : Bool :=
  s.torn.all fun p => decide (p * pageSize < a) || decide (a + len ≤ p * pageSize)

/-! ### The items of a block -/

/-- The number of entries marked in use in a block's area (R175; log 4). -/
def itemCount (k : Fin 9) (area : List Byte) : Nat :=
  match k with
  | 0 => ((List.range 256).filter fun n => (Config.sectionEntry area n).isSome).length
  | 1 => ((List.range 128).filter fun n => (Config.pointEntry area n).isSome).length
  | 2 => ((List.range 128).filter fun n => (Config.signalEntry area n).isSome).length
  | 3 => ((List.range 8).filter fun n => (Config.districtEntry area n).isSome).length
  | 4 => ((List.range 32).filter fun n => (Config.boardEntry area n).isSome).length
      + ((List.range 4).filter fun n => (Config.departureEntry area n).isSome).length
  | 5 => ((List.range 15).filter fun n => (Config.stationEntry area n).isSome).length
  | 6 => if (Config.turntableEntry area).isSome then 1 else 0
  | 7 => ((List.range 8).filter fun n => (Config.buttonEntry area n).isSome).length
  | 8 => if (Config.timingEntry area).isSome then 1 else 0

/-! ### The header (10, "Store header and store map") -/

/-- The signature, the characters J X G S (log 6). -/
def signature : List Byte := [0x4A, 0x58, 0x47, 0x53]

/-- The header is acceptable: its signature and its CRC are good (R175), and its page is not one written in part
(R178). -/
def headerGood (s : State) : Bool :=
  let h := headerBytes s
  areaWhole s 0 pageSize && h.take 4 == signature && crc16 (h.take 62) == wordAt h 62

/-- The item count and the CRC that the header holds for a block. -/
def blockEntry (h : List Byte) (k : Fin 9) : BitVec 16 × BitVec 16 := (wordAt h (8 + 4 * k.val), wordAt h (10 + 4 * k.val))

/-- The header entry worked out from a block's whole area as it stands in the store (R177). -/
def freshEntry (s : State) (k : Fin 9) : List Byte :=
  wordBytes (BitVec.ofNat 16 (itemCount k (areaBytes s k))) ++ wordBytes (crc16 (areaBytes s k))

/-- The header entry of a block as a header holds it. -/
def heldEntry (h : List Byte) (k : Fin 9) : List Byte := (h.drop (8 + 4 * k.val)).take 4

/-- A header page out of its parts, closed by its CRC. -/
def makeHeader (version count : BitVec 16) (entries : List Byte) : List Byte :=
  let b := signature ++ wordBytes version ++ wordBytes count ++ entries ++ List.replicate 18 0
  b ++ wordBytes (crc16 b)

/-- The image version that a header holds. -/
def headerVersion (h : List Byte) : BitVec 16 := wordAt h 4

/-- The header page of a write in READY: the write count rises by 1, and a config block's entry is made afresh
(R177; log 36). -/
def headerInReady (s : State) (what : StorePage) : List Byte :=
  let h := headerBytes s
  let entry := fun k => match what with
    | .config j _ => if j = k then freshEntry s k else heldEntry h k
    | _ => heldEntry h k
  makeHeader (headerVersion h) (wordAt h 6 + 1) ((List.finRange 9).flatMap entry)

/-- The header page of a write in NO_IMAGE, built anew (R177). -/
def headerAnew (s : State) : List Byte :=
  makeHeader (if headerGood s then headerVersion (headerBytes s) else 0) 1 ((List.finRange 9).flatMap (freshEntry s))

/-- The header page that a write makes (R177). -/
def newHeader (s : State) (what : StorePage) : List Byte :=
  if s.loadState = .noImage then headerAnew s else headerInReady s what

/-! ### A write (R177) -/

/-- Admit a write: its first page is being written (R177). -/
def beginWrite (page : StorePage) (bs : List Byte) (s : State) : State := { s with write := some ⟨page, page, bs⟩ }

/-- The store holds a page's bytes whole. -/
def putPage (a : Nat) (bs : List Byte) (s : State) : State :=
  { s with store := memWrites s.store a bs, torn := s.torn.filter (· ≠ a / pageSize) }

/-- The config blocks whose header entries a write works out from their areas as they stand (R177). -/
def freshBlocks (s : State) (what : StorePage) : List (Fin 9) :=
  if s.loadState = .noImage then List.finRange 9
  else match what with
    | .config k _ => [k]
    | _ => []

/-- A page lies in a config block's area. -/
def pageInBlock (p : Nat) (k : Fin 9) : Bool :=
  decide ((blockArea k).1 ≤ p * pageSize) && decide (p * pageSize < (blockArea k).1 + (blockArea k).2)

/-- The store holds the page of a write whole. A header then holds the count and the CRC of each block that it was made
afresh for, so a page of such a block that was written in part counts as it stands (R175, R177). -/
def putWritten (w : StoreWrite) (s : State) : State :=
  let fresh := if w.page = .header then freshBlocks s w.what else []
  let s1 := putPage w.page.address w.bytes s
  { s1 with torn := s1.torn.filter fun p => !fresh.any (pageInBlock p) }

/-- The bytes that a route slot's write put into its slot. -/
def slotContent (s : State) (n : SlotId) : List Byte := pageBytes s (slotAddress n)

/-- The STORE event (R175, R176, R177). -/
def storeEvent (s : State) : State := setFlag .store supervisor s

/-- The write ends (R177): the result is recorded, the STORE event is set, and the route table is told the outcome of a
slot's write (R54). -/
def writeEnds (w : StoreWrite) (ok : Bool) (s : State) : State :=
  let s1 := storeEvent { s with write := none, lastStoreResult := some (if ok then .done w.what else .failed w.page) }
  match w.what with
  | .slot n => slotWriteEnds n (slotContent s n) ok s1
  | _ => s1

/-- The next page of a write whose page was verified: the header, or the end (R177). -/
def pageVerified (w : StoreWrite) (s : State) : State :=
  if w.page = .header then writeEnds w true s
  else { s with write := some { w with page := .header, bytes := newHeader s w.what } }

/-- A page write is acknowledged and read back (R177): the store holds the bytes read back (log 30), and they are compared
with what was written. -/
def pageWritten (readBack : Page) (s : State) : State :=
  match s.write with
  | none => s
  | some w =>
    if readBack.toList = w.bytes then pageVerified w (putWritten w s)
    else writeEnds w false (putPage w.page.address readBack.toList s)

/-- What the store holds of a page whose write was cut off, or was never acknowledged: nothing new, part of it with free
bytes, or the whole page (R178; log 5). -/
def leavePage (w : StoreWrite) (s : State) : State :=
  let a := w.page.address
  let s1 := { s with freeCtr := s.freeCtr + 1 }
  match Config.pageReached s.freeCtr with
  | .untouched => s1
  | .whole => putWritten w s1
  | .part =>
    let bs := (List.range pageSize).map (Config.tornByte s.freeCtr)
    { putPage a bs s1 with torn := a / pageSize :: (putPage a bs s1).torn }

/-- The 10 ms pass without acknowledgement: the page fails and the write ends (R177). -/
def writeTimesOut (s : State) : State :=
  match s.write with
  | none => s
  | some w => writeEnds w false (leavePage w s)

/-- A write in progress is abandoned without a record (R174, R178). -/
def abandonWrite (s : State) : State :=
  match s.write with
  | none => s
  | some w => { leavePage w s with write := none }

/-! ### Requests -/

/-- WRITE ROUTE SLOT in READY or NO_IMAGE (R177, R52, R53). -/
def handleWriteSlot (st : StationId) (slot : Nat) (bs : Page) (s : State) : Handled :=
  if st ≠ supervisor then unchanged s (plain .notPermitted)
  else match toId 512 slot with
    | none => unchanged s (plain .badRequest)
    | some n =>
      if s.write.isSome then unchanged s (plain .busy)
      else match slotWriteRefusal s n bs.toList with
        | some (c, d) => unchanged s ⟨c, d⟩
        | none =>
          let s1 := beginWrite (.slot n) bs.toList s
          (plain .accepted, if s.loadState = .ready then setWriting n true s1 else s1)

/-- WRITE CONFIG BLOCK in READY or NO_IMAGE (R177). -/
def handleWriteConfig (st : StationId) (block page : Nat) (bs : Page) (s : State) : Handled :=
  if st ≠ supervisor then unchanged s (plain .notPermitted)
  else match toId 9 block with
    | none => unchanged s (plain .badRequest)
    | some k =>
      if page < blockPages k then
        if s.write.isSome then unchanged s (plain .busy)
        else (plain .accepted, beginWrite (.config k page) bs.toList s)
      else unchanged s (plain .badRequest)

/-- The bytes that a READ STORE names, or none where R179 check 3 refuses it. -/
def readRange : StoreRead → Option (Nat × Nat × Option SlotId)
  | .bytes a len => if 1 ≤ len ∧ len ≤ 64 ∧ a + len ≤ storeSize then some (a, len, none) else none
  | .slot n => (toId 512 n).map fun k => (slotAddress k, pageSize, some k)

/-- READ STORE in READY or NO_IMAGE (R179); `acked` says whether the store acknowledged the read (log 24). -/
def handleReadStore (st : StationId) (what : StoreRead) (acked : Bool) (s : State) : Handled :=
  if st ≠ supervisor then unchanged s (plain .notPermitted)
  else match readRange what with
    | none => unchanged s (plain .badRequest)
    | some (a, len, k) =>
      if s.write.isSome then unchanged s (plain .busy)
      else if acked = false then unchanged s (naming .itemFailed .store)
      else
        let bs := memReads s.store a len
        unchanged s ⟨.done, match k with
          | none => .bytes bs
          | some n => .slotBytes bs (tget s.slots n).status⟩

end Sys2Proof.Machine
end

