-- ==== Sys2Proof/Machine/Loader.lean ====
section
/-! DEFINITION. The loader: reading the header, the config blocks and the slots (R175, R176), configuring the items in
order (R175, with R108, R132, R144, R158, R160, R164), and the two ends of a load. -/

namespace Sys2Proof.Machine

/-! ### What a config block says of an entry -/

/-- The area of a block as the loader takes it: none if the block failed (R175). -/
def blockTaken (s : State) (failed : List (Fin 9)) (k : Fin 9) : Option (List Byte) :=
  if failed.contains k then none else some (areaBytes s k)

/-- The board with an address 1-32, if it is configured with a type. -/
def typedBoard (s : State) (t : BoardType) (addr : Nat) : Option BoardIdx :=
  match addr with
  | 0 => none
  | a + 1 => (toId 32 a).bind fun b => if (tget s.boards b).type = some t then some b else none

/-! ### Boards and departure boards (R158, R132) -/

/-- The board's entry after the boards block has been read (R158): one that keeps its type keeps its state, and any other
becomes UNKNOWN with count 0. -/
def BoardRec.configured (t : Option BoardType) (b : BoardRec) : BoardRec :=
  if b.type = t ∧ t ≠ none then b
  else { b with type := t, state := .unknown, missCount := 0, repollTimer := none, repollDue := false }

/-- Configure one board. -/
def loadBoard (area : Option (List Byte)) (a : BoardIdx) (s : State) : State :=
  setBoard a (BoardRec.configured (area.bind fun l => Config.boardEntry l a.val)) s

/-- The address that the block gives a departure board. -/
def depAddress (area : Option (List Byte)) (b : DepBoardId) : Option Nat :=
  (area.bind fun l => Config.departureEntry l b.val).bind id

/-- Configure one departure board: it is absent when its address is none, is not a DISPLAY board's, or is named by a
lower-numbered one (R132). -/
def loadDepBoard (area : Option (List Byte)) (b : DepBoardId) (s : State) : State :=
  let lower := (List.finRange 4).filter fun c => decide (c < b)
  let addr := (depAddress area b).bind fun n =>
    if lower.any fun c => depAddress area c == some n then none else typedBoard s .display n
  { s with depBoards := tupd s.depBoards b fun e => { e with addr := addr } }

/-! ### Districts, sections, points, signals (R175) -/

/-- Configure one district. -/
def loadDistrict (area : Option (List Byte)) (d : DistrictId) (s : State) : State :=
  let cfg := (area.bind fun l => Config.districtEntry l d.val).bind fun e =>
    match typedBoard s .district e.board, toId 8 e.channel with
    | some a, some c =>
      let g : DistrictCfg := ⟨a, c⟩
      if (idsWhere s.districts fun x => x.cfg == some g).isEmpty then some g else none
    | _, _ => none
  setDistrict d (fun e => { e with cfg := cfg }) s

/-- Whether a detector input is taken by an earlier section. -/
def inputTaken (s : State) (a : BoardIdx) (i : InputNo) : Bool :=
  !(idsWhere s.sections fun x => (x.cfg.map fun c => (c.board, c.input)) == some (a, i)).isEmpty

/-- Configure one section. -/
def loadSection (area : Option (List Byte)) (n : SectionId) (s : State) : State :=
  let cfg := (area.bind fun l => Config.sectionEntry l n.val).bind fun e =>
    match toId 8 e.district, typedBoard s .detector e.board, toId 16 e.input with
    | some d, some a, some i =>
      if (tget s.districts d).cfg.isSome ∧ inputTaken s a i = false then some ⟨d, a, i⟩ else none
    | _, _, _ => none
  { s with sections := tupd s.sections n fun e => { e with cfg := cfg } }

/-- Configure one point. -/
def loadPoint (area : Option (List Byte)) (p : PointId) (s : State) : State :=
  let cfg := (area.bind fun l => Config.pointEntry l p.val).bind fun e =>
    match toId 256 e.sec, typedBoard s .point e.board, toId 8 e.channel with
    | some n, some a, some c =>
      if sectionIn s n ∧ (pointAt s a c).isNone then some ⟨n, a, c⟩ else none
    | _, _, _ => none
  { s with points := tupd s.points p fun e => { e with cfg := cfg } }

/-- Whether a head channel is taken by an earlier signal. -/
def headTaken (s : State) (a : BoardIdx) (c : Channel) : Bool :=
  !(idsWhere s.signals fun x => (x.cfg.map fun g => (g.board, g.head)) == some (a, c)).isEmpty

/-- Configure one signal; its controlled field is set from the state of its board (R20). -/
def loadSignal (area : Option (List Byte)) (sg : SignalId) (s : State) : State :=
  let cfg := (area.bind fun l => Config.signalEntry l sg.val).bind fun e =>
    match typedBoard s .signal e.board, toId 8 e.head, toId 256 e.berth, toId 256 e.firstBeyond with
    | some a, some c, some b, some f =>
      if sectionIn s b ∧ sectionIn s f ∧ headTaken s a c = false then
        some ⟨if e.shunt then .shunt else .main, a, c, b, f⟩
      else none
    | _, _, _, _ => none
  let controlled := (cfg.map fun g : SignalCfg => boardPresent s g.board).getD false
  { s with signals := tupd s.signals sg fun e => { e with cfg := cfg, controlled := controlled } }

/-! ### The turntable (R108, R131) -/

/-- A configured section out of a number. -/
def knownSection (s : State) (n : Nat) : Option SectionId := (toId 256 n).bind fun k => if sectionIn s k then some k else none

/-- The road sections of an entry: none if one of them is not configured (log 20); a section that a lower-numbered road
already has makes its road not built (R108). -/
def loadRoads (s : State) (e : Config.TurntableEntry) : Option (Vector (Option SectionId) 24) :=
  if e.roads.toList.all fun r => (r.map fun n => (knownSection s n).isSome).getD true then
    let at_ := fun j : RoadId => (tget e.roads j).bind (knownSection s)
    some (Vector.ofFn fun j =>
      if (List.finRange 24).any fun i => decide (i < j) && (at_ i).isSome && at_ i == at_ j then none else at_ j)
  else none

/-- The turntable's configuration, if its entry takes its place. -/
def turntableCfg (s : State) (area : Option (List Byte)) : Option TurntableCfg :=
  (area.bind Config.turntableEntry).bind fun e =>
    match typedBoard s .turntable e.board, knownSection s e.deck, knownSection s e.pit1, knownSection s e.pit2, loadRoads s e with
    | some a, some d, some p, some q, some roads => some ⟨a, d, p, q, roads⟩
    | _, _, _, _, _ => none

/-- A turntable whose position is no longer known: UNKNOWN, and the last position takes the position (R131). -/
def Turntable.unplaced (t : Turntable) : Turntable :=
  { t with state := .unknown, lastPosition := t.remembered, position := none }

/-- The turntable takes its configuration: one that is not configured is UNKNOWN, whatever it was (R108, R131); one that is
configured again on the same board stays as it is; an IDLE one that is configured on another board is UNKNOWN (log 49). -/
def Turntable.configured (t : Turntable) (cfg : Option TurntableCfg) : Turntable :=
  match cfg with
  | none => { t.unplaced with cfg := none }
  | some c =>
    { (if t.state = .idle ∧ t.cfg.map (·.board) ≠ some c.board then t.unplaced else t) with cfg := some c }

/-- The turntable takes its configuration (R108, R131). -/
def configureTurntable (cfg : Option TurntableCfg) (s : State) : State := setTt (·.configured cfg) s

/-! ### Buttons (R144) -/

/-- The cooldown in force: a stored value outside 10-600 s gives 60 s (R144). -/
def cooldownInRange (n : Nat) : Nat := if 10 ≤ n ∧ n ≤ 600 then n else 60

/-- The kind of a button entry, if its numbers are in range (log 20). -/
def buttonKind : Config.ButtonEntryKind → Option ButtonKind
  | .turntable j b => (toId 24 j).map fun r => .turntable r (if b then .b else .a)
  | .route n => (toId 512 n).map .route

/-- Configure one button. -/
def loadButton (area : Option (List Byte)) (b : ButtonId) (s : State) : State :=
  let cfg := (area.bind fun l => Config.buttonEntry l b.val).bind fun e =>
    match buttonKind e.kind, typedBoard s .button e.board, toId 8 e.channel with
    | some k, some a, some c =>
      if (buttonAt s a c).isNone then some ⟨k, cooldownInRange e.cooldown, a, c⟩ else none
    | _, _, _ => none
  { s with buttons := tupd s.buttons b fun e => { e with cfg := cfg } }

/-! ### Stations and territories (R160, R164) -/

/-- A stored range in use: its size is a power of two up to 128, its base a multiple of the size, and it ends at or before
item 127 (R164). -/
def rangeInUse (e : Config.RangeEntry) : Option Range :=
  if [1, 2, 4, 8, 16, 32, 64, 128].contains e.size ∧ e.base % e.size = 0 ∧ e.base + e.size ≤ 128 then some ⟨e.base, e.size⟩
  else none

/-- The territory of a station's entry. -/
def territoryFrom (e : Config.StationEntry) : Territory :=
  ⟨rangeInUse e.signals1, rangeInUse e.signals2, rangeInUse e.points1, rangeInUse e.points2, e.boards, e.turntable⟩

/-- A station's entry after the stations block has been read. `before` says whether it was enrolled, or treated as
enrolled, until then (R160). -/
def StationRec.configured (before now : Bool) (territory : Territory) (e : StationRec) : StationRec :=
  let e1 := { e with enrolled := now, territory := territory }
  if before && !now then { e1 with repollTimer := none, repollDue := false, flags := tall 12 false }
  else if now && !before then { e1 with present := true, missCount := 0, repollTimer := none, repollDue := false }
  else e1

/-- Configure one station; station 0 is enrolled whatever the block says (R160). -/
def loadStation (before : StationId → Bool) (area : Option (List Byte)) (st : StationId) (s : State) : State :=
  let e := area.bind fun l => Config.stationEntry l st.val
  let now := st == supervisor || (e.map (·.enrolled)).getD false
  setStation st (StationRec.configured (before st) now ((e.map territoryFrom).getD .empty)) s

/-! ### Timing constants -/

/-- A stored value within its range, or the default of its rule. -/
def within (lo hi dflt n : Nat) : Nat := if lo ≤ n ∧ n ≤ hi then n else dflt

/-- The timing constants in force (R4, R32, R77, R86, R117, R137). -/
def timingFrom (area : Option (List Byte)) : Timing :=
  match area.bind Config.timingEntry with
  | none => .default
  | some e =>
    { clearDelay := within 100 2000 500 e.clearDelay, rechargeGap := within 100 2000 300 e.rechargeGap
      throwTime := within 1000 10000 4000 e.throwTime, overlapTime := within 0 120000 30000 e.overlapTime
      emergencyTime := within 30000 600000 120000 e.emergencyTime, stepTime := within 2000 20000 8000 e.stepTime
      lingerTime := within 5000 120000 20000 e.lingerTime }

/-! ### Configuring the items in order (R175; log 10) -/

/-- Boards, with the departure boards. -/
def configureBoards (area : Option (List Byte)) (s : State) : State :=
  forEach (List.finRange 4) (loadDepBoard area) (forEach (List.finRange 32) (loadBoard area) s)

/-- Stations and territories. -/
def configureStations (area : Option (List Byte)) (s : State) : State :=
  let before := isEnrolled s
  { forEach (List.finRange 15) (loadStation before area) s with stationsRead := true }

/-- Districts. -/
def configureDistricts (area : Option (List Byte)) (s : State) : State := forEach (List.finRange 8) (loadDistrict area) s

/-- Sections. -/
def configureSections (area : Option (List Byte)) (s : State) : State := forEach (List.finRange 256) (loadSection area) s

/-- Points. -/
def configurePoints (area : Option (List Byte)) (s : State) : State := forEach (List.finRange 128) (loadPoint area) s

/-- Signals. -/
def configureSignals (area : Option (List Byte)) (s : State) : State := forEach (List.finRange 128) (loadSignal area) s

/-- The turntable. -/
def configureDeck (area : Option (List Byte)) (s : State) : State := configureTurntable (turntableCfg s area) s

/-- Buttons. -/
def configureButtons (area : Option (List Byte)) (s : State) : State := forEach (List.finRange 8) (loadButton area) s

/-- The timing constants. -/
def configureTiming (area : Option (List Byte)) (s : State) : State := { s with timing := timingFrom area }

/-- Every item in R175's order. -/
def configureItems (failed : List (Fin 9)) (s : State) : State :=
  let area := blockTaken s failed
  configureTiming (area 8) <| configureStations (area 5) <| configureButtons (area 7) <| configureDeck (area 6) <|
    configureSignals (area 2) <| configurePoints (area 1) <| configureSections (area 0) <| configureDistricts (area 3) <|
      configureBoards (area 4) s

/-- The config blocks are read: the items are configured, and the links follow (R175). -/
def blocksRead (failed : List (Fin 9)) (s : State) : State :=
  startSending { configureItems failed s with loader := .slot 0 }

/-! ### The end of a load -/

/-- The load ends in READY (R176): the districts leave OFF, and the STORE event is set. -/
def loadReady (s : State) : State :=
  storeEvent (forEach (List.finRange 8) energise { s with loadState := .ready, loader := .idle })

/-- A board when the load ends in NO_IMAGE (R158). -/
def BoardRec.withoutImage (b : BoardRec) : BoardRec := b.configured none

/-- The load ends in NO_IMAGE (R175, R158, R131). -/
def loadFails (s : State) : State :=
  storeEvent (configureTurntable none { s with
    loadState := .noImage, loader := .idle, boards := tmap BoardRec.withoutImage s.boards
    depBoards := tmap (fun b => { b with addr := none }) s.depBoards })

/-! ### Reads (R175, R176) -/

/-- The header page has been read (R175). -/
def headerRead (s : State) : State :=
  if headerGood s then { s with imageVersion := some (headerVersion (headerBytes s)), loader := .block 0 [] }
  else loadFails s

/-- Whether a config block fails its check against the header (R175); one with a page that was written in part since its CRC
was worked out fails its CRC (R178; log 5). -/
def blockFails (s : State) (k : Fin 9) : Bool :=
  let bs := areaBytes s k
  let e := blockEntry (headerBytes s) k
  !(areaWhole s (blockArea k).1 (blockArea k).2) || crc16 bs != e.2 || BitVec.ofNat 16 (itemCount k bs) != e.1

/-- A config block has been taken, failed or not; a failed one sets STORE DAMAGED (R175). -/
def blockTakenAs (k : Fin 9) (failed : List (Fin 9)) (bad : Bool) (s : State) : State :=
  let f := if bad then failed ++ [k] else failed
  let s1 := if bad then { s with storeDamaged := true } else s
  match toId 9 (k.val + 1) with
  | some j => { s1 with loader := .block j f }
  | none => blocksRead f s1

/-- A slot has been taken: the next is read, or the load ends (R176). -/
def slotTaken (n : SlotId) (s : State) : State :=
  match toId 512 (n.val + 1) with
  | some m => { s with loader := .slot m }
  | none => loadReady s

/-- A route slot has been read (R176). -/
def slotRead (n : SlotId) (s : State) : State :=
  slotTaken n (takeSlot n (slotContent s n) (areaWhole s (slotAddress n) pageSize) s)

/-- A store read or write is not acknowledged within 10 ms (R175, R176, R177). -/
def ackTimeout (s : State) : State :=
  match s.loader with
  | .idle => writeTimesOut s
  | .header => loadFails s
  | .block k failed => blockTakenAs k failed true s
  | .slot n => slotTaken n (damagedSlot n s)

/-! ### The layout reset (R174) -/

/-- The sections, districts, signals and points take their layout reset values (R10, R11, R20, R41). -/
def resetTrack (s : State) : State :=
  { s with
    sections := tall 256 .reset, districts := tall 8 .reset, signals := tall 128 .reset, points := tall 128 .reset
    throwQueue := [], rechargeTimer := none }

/-- The output image of a board after a layout reset: every owner's reset value; the bolt is left as it stands (R131). -/
def OutputImage.layoutReset (i : OutputImage) : OutputImage := { OutputImage.safe with ttBolt := i.ttBolt }

/-- The turntable record after a layout reset, before the load configures it again (R131). -/
def Turntable.layoutReset (t : Turntable) : Turntable :=
  let t1 := { t with
    queue := [], current := none, deckLock := .free, stageTimer := none, stepsCounted := 0, lastIndexCount := none
    nextMoveNo := 0, phase := none }
  if t.state = .idle then t1
  else { t1 with state := .unknown, lastPosition := t.remembered, position := none, interrupted := true }

/-- The display unit and the demonstration unit take their layout reset values (R132, R144). -/
def resetPublic (s : State) : State :=
  { s with
    announcements := tall 32 none, depBoards := tmap (fun b => { DepBoard.reset with addr := b.addr }) s.depBoards
    openDay := false, buttons := tall 8 .reset }

/-- A station after a layout reset: the link state, miss count and re-poll timer stay, every flag is cleared, and it has
no territory until the block is read. One that was not enrolled is treated as enrolled again: PRESENT with count 0
(R160; log 13). -/
def StationRec.layoutReset (enrolled : Bool) (e : StationRec) : StationRec :=
  let e1 := { e with enrolled := false, flags := tall 12 false, territory := .empty }
  if enrolled then e1 else { e1 with present := true, missCount := 0, repollTimer := none, repollDue := false }

/-- The station table after a layout reset. -/
def resetStations (s : State) : State :=
  let was := isEnrolled s
  { forEach (List.finRange 15) (fun st => setStation st (StationRec.layoutReset (was st))) s with stationsRead := false }

/-- The rest of the part after a layout reset: the tables of routes, reservations, trains and the turntable, the output
images, the records of the panel link and of the store, and the loader at its start (R90, R107, R131, R174). -/
def resetRest (s : State) : State :=
  { s with
    slots := tall 512 .reset, reservations := tall 64 none, trains := tall 48 none, tt := s.tt.layoutReset
    boards := tmap (fun b => { b with image := b.image.layoutReset }) s.boards
    panelLink := { s.panelLink with lastRefusal := none }
    lastStoreResult := none, storeDamaged := false, loadState := .loading, loader := .header, imageVersion := none
    timing := .default, layoutResetDue := false }

/-- The layout reset is carried out (R174): the write is abandoned, the tables are reset, and the loader begins. The panel
link goes on polling. -/
def layoutResetDone (s : State) : State :=
  nextPoll (resetRest (resetStations (resetPublic (resetTrack (abandonWrite s)))))

end Sys2Proof.Machine
end

