-- ==== Sys2Proof/Machine/TrackRequests.lean ====
section
/-! DEFINITION. The requests for sections, districts, signals and points (R9, R18, R19, R24, R39, R40), and the timers of
districts (R14). Each request is given as READY takes it. -/

namespace Sys2Proof.Machine

/-! ### READ requests -/

/-- READ SECTION (R9). -/
def handleReadSection (n : Nat) (s : State) : Handled :=
  unchanged s <| match toId 256 n with
    | none => plain .badRequest
    | some k =>
      let e := tget s.sections k
      match e.cfg with
      | none => naming .noSuchItem (.sec k)
      | some c => ⟨.done, .sec ⟨e.occ, e.clearTimer.isSome, e.lock, c, cfgHeld s c, headIn s k⟩⟩

/-- READ DISTRICT (R19). -/
def handleReadDistrict (n : Nat) (s : State) : Handled :=
  unchanged s <| match toId 8 n with
    | none => plain .badRequest
    | some d =>
      let e := tget s.districts d
      match e.cfg with
      | none => naming .noSuchItem (.district d)
      | some c => ⟨.done, .district ⟨e.state, e.retryCount, e.retryTimer.tenths, e.confirmWindow.isSome, c, e.cause⟩⟩

/-- READ SIGNAL (R24). -/
def handleReadSignal (n : Nat) (s : State) : Handled :=
  unchanged s <| match toId 128 n with
    | none => plain .badRequest
    | some x =>
      let e := tget s.signals x
      match e.cfg with
      | none => naming .noSuchItem (.signal x)
      | some c => ⟨.done, .signal ⟨e.aspect, e.controlled, e.entranceOf, c⟩⟩

/-- The throw of a MOVING point as READ POINT shows it (R40). -/
def throwView (e : PointRec) : Option ThrowView :=
  if e.state = .moving then some ⟨e.target, e.throwOwner, e.throwTimer.tenths, e.releaseAtEnd⟩ else none

/-- The queued order of a point as READ POINT shows it (R40). -/
def queuedView (s : State) (p : PointId) : Option QueuedView :=
  (queuedOrder s p).map fun o => ⟨o.pos, o.owner, s.throwQueue.findIdx (·.point == p) + 1⟩

/-- READ POINT (R40). -/
def handleReadPoint (n : Nat) (s : State) : Handled :=
  unchanged s <| match toId 128 n with
    | none => plain .badRequest
    | some p =>
      let e := tget s.points p
      match e.cfg with
      | none => naming .noSuchItem (.point p)
      | some c => ⟨.done, .point ⟨e.state, throwView e, e.lock, queuedView s p, e.lastDetection, c⟩⟩

/-! ### THROW POINT (R39) -/

/-- The reply of an order: appended, or QUEUE FULL (R39). -/
def throwOrder (p : PointId) (pos : PointPos) (s : State) : Handled :=
  if throwQueueSize ≤ s.throwQueue.length then unchanged s (naming .queueFull .throwQueue)
  else (plain .accepted, appendOrder ⟨p, pos, none⟩ s)

/-- Checks 5 to 9 of THROW POINT (R39): the refusal, or none. -/
def throwRefusal (s : State) (p : PointId) (c : PointCfg) : Option Reply :=
  let e := tget s.points p
  if e.lock ≠ .free then some (naming .locked (.point p))
  else if e.state = .moving ∨ (queuedOrder s p).isSome then some (naming .pointBusy (.point p))
  else if boardPresent s c.board = false then some (naming .itemFailed (.point p))
  else match lockOf s c.sec with
    | some l => some (naming .conflict (.res l.res))
    | none => if occOf s c.sec ≠ .clear then some (naming .occupied (.sec c.sec)) else none

/-- THROW POINT for a configured point in the station's territory (R39). -/
def throwConfigured (p : PointId) (c : PointCfg) (pos : PointPos) (s : State) : Handled :=
  match throwRefusal s p c with
  | some y => unchanged s y
  | none => if (tget s.points p).state.is pos then unchanged s (plain .done) else throwOrder p pos s

/-- THROW POINT (R39). -/
def handleThrow (st : StationId) (n : Nat) (pos : Option PointPos) (s : State) : Handled :=
  match toId 128 n, pos with
  | some p, some x =>
    match (tget s.points p).cfg with
    | none => unchanged s (naming .noSuchItem (.point p))
    | some c =>
      if passesTerritory s (.station st) (·.point p) then throwConfigured p c x s
      else territoryRefused st codeThrowPoint (.point p) s
  | _, _ => unchanged s (plain .badRequest)

/-! ### RESTORE DISTRICT (R18) -/

/-- RESTORE DISTRICT (R18). -/
def handleRestore (st : StationId) (n : Nat) (s : State) : Handled :=
  if st ≠ supervisor then unchanged s (plain .notPermitted)
  else match toId 8 n with
    | none => unchanged s (plain .badRequest)
    | some d =>
      let e := tget s.districts d
      if e.cfg = none then unchanged s (naming .noSuchItem (.district d))
      else if e.state = .lockedOut ∨ e.state = .cut then (plain .done, districtChanged d e.state (energise d s))
      else unchanged s (wrongState (.district e.state))

/-! ### The timers of a district (R12, R14) -/

/-- The fault filter expires: a fault is taken (R12). -/
def faultFilterExpires (d : DistrictId) (s : State) : State :=
  if (tget s.districts d).faultFilter = none then s else faultIn d s

/-- The retry timer expires: the booster is on and the confirm window opens (R14). -/
def retryExpires (d : DistrictId) (s : State) : State :=
  if (tget s.districts d).retryTimer = none then s
  else boosterEnable d true (setDistrict d (fun e => { e with retryTimer := none, confirmWindow := some confirmTime }) s)

/-- The confirm window expires without a fault taken: the district goes NORMAL (R14). -/
def confirmExpires (d : DistrictId) (s : State) : State :=
  if (tget s.districts d).confirmWindow = none then s
  else districtChanged d .tripped
    (setDistrict d (fun e => { e with state := .normal, retryCount := 0, retryTimer := none, confirmWindow := none }) s)

/-! ### Other timers of the track items -/

/-- The clear-delay timer expires (R5). -/
def clearDelayExpires (n : SectionId) (s : State) : State :=
  if (tget s.sections n).clearTimer = none then s else clearSection n s

/-- The recharge timer expires (R32). -/
def rechargeExpires (s : State) : State :=
  if s.rechargeTimer = none then s else considerStart { s with rechargeTimer := none }

end Sys2Proof.Machine
end

