-- ==== Sys2Proof/Machine/TrainRequests.lean ====
section
/-! DEFINITION. The train requests (R100 to R106), as READY takes them. -/

namespace Sys2Proof.Machine

/-- A request from a station other than the supervisor that creates, moves, edits or deletes a record sets the TRAIN event
for the supervisor (R100). -/
def tellSupervisor (st : StationId) (s : State) : State := if st = supervisor then s else setFlag .train supervisor s

/-- The longest destination text (R91). -/
def maxDest : Nat := 16

/-- A loco address as stored: 0 is an absent one (R100). -/
def locoOf (n : Nat) : Option Nat := if n = 0 then none else some n

/-- The form tests of the values of a train record (R101, check 2). -/
def trainFormBad (kind : Option TrainKind) (loco : Nat) (dest : List Byte) : Bool :=
  kind.isNone || decide (9999 < loco) || decide (maxDest < dest.length)

/-- The FREE train entries in ascending order. -/
def freeTrains (s : State) : List TrainId := idsWhere s.trains (·.isNone)

/-- Create a record in the lowest-numbered FREE entry, or refuse TABLE FULL (R101, R102). -/
def createTrain (st : StationId) (t : Train) (s : State) : Handled :=
  match freeTrains s with
  | [] => unchanged s (naming .tableFull .trainTable)
  | h :: _ =>
    let s1 := tellSupervisor st { s with trains := tput s.trains h (some t) }
    (⟨.done, .handle h⟩, match t.head with
      | none => s1
      | some n => deckHeadChanged n s1)

/-- Whether a facing is given or missing against the deck section (R101, check 4). -/
def facingBad (s : State) (n : SectionId) (facing : Option DeckEnd) : Bool := facing.isSome != (deckSection s == some n)

/-- INTERPOSE TRAIN (R101). -/
def handleInterpose (st : StationId) (sec : Nat) (headcode : Headcode) (kind : Option TrainKind) (loco : Nat)
    (dest : List Byte) (facing : Option DeckEnd) (s : State) : Handled :=
  match toId 256 sec, kind with
  | some n, some k =>
    if trainFormBad kind loco dest then unchanged s (plain .badRequest)
    else if sectionIn s n = false then unchanged s (naming .noSuchItem (.sec n))
    else if facingBad s n facing then unchanged s (plain .badRequest)
    else if occOf s n ≠ .occupied then unchanged s (naming .occupied (.sec n))
    else match headIn s n with
      | some u => unchanged s (naming .conflict (.train u))
      | none => createTrain st ⟨headcode, locoOf loco, k, some n, facing, dest, false, false⟩ s
  | _, _ => unchanged s (plain .badRequest)

/-- ENTER TRAIN OFF LAYOUT (R102). -/
def handleEnterTrain (st : StationId) (headcode : Headcode) (kind : Option TrainKind) (loco : Nat) (dest : List Byte)
    (s : State) : Handled :=
  match kind with
  | none => unchanged s (plain .badRequest)
  | some k =>
    if trainFormBad kind loco dest then unchanged s (plain .badRequest)
    else createTrain st ⟨headcode, locoOf loco, k, none, none, dest, false, false⟩ s

/-- The work of an accepted MOVE TRAIN (R103). -/
def moveTrainTo (st : StationId) (h : TrainId) (v : Train) (n : SectionId) (facing : Option DeckEnd) (s : State) : State :=
  let s1 := tellSupervisor st (updTrain h (fun v => { v with head := some n, facing := facing, lost := false }) s)
  let s2 := match v.head with
    | none => s1
    | some p => deckHeadChanged p s1
  deckHeadChanged n s2

/-- MOVE TRAIN (R103). Where the entry is FREE and the section absent, the detail of check 3 names the train (the model's
choice, log 63). -/
def handleMoveTrain (st : StationId) (handle sec : Nat) (facing : Option DeckEnd) (s : State) : Handled :=
  match toId 48 handle, toId 256 sec with
  | some h, some n =>
    match tget s.trains h with
    | none => unchanged s (naming .noSuchItem (.train h))
    | some v =>
      if sectionIn s n = false then unchanged s (naming .noSuchItem (.sec n))
      else if facingBad s n facing then unchanged s (plain .badRequest)
      else if occOf s n ≠ .occupied then unchanged s (naming .occupied (.sec n))
      else match headIn s n with
        | some u => if u = h then unchanged s (plain .done) else unchanged s (naming .conflict (.train u))
        | none => (plain .done, moveTrainTo st h v n facing s)
  | _, _ => unchanged s (plain .badRequest)

/-- The live reservations whose train field names a train, in ascending order (R106). -/
def reservationsOf (s : State) (h : TrainId) : List ResId := idsWhere s.reservations fun v => v.bind (·.train) == some h

/-- A reservation whose train is deleted: its train field is cleared, and its owner gets the TRAIN event (R104). -/
def clearResTrain (r : ResId) (s : State) : State :=
  match getRes s r with
  | none => s
  | some v => setOwnerFlag .train v.owner (setResTrain r none s)

/-- The work of an accepted DELETE TRAIN (R104). -/
def deleteTrainWork (st : StationId) (h : TrainId) (v : Train) (s : State) : State :=
  let s1 := forEach (reservationsOf s h) clearResTrain { s with trains := tput s.trains h none }
  let s2 := tellSupervisor st (annTrainDeleted h s1)
  match v.head with
  | none => s2
  | some n => deckHeadChanged n s2

/-- DELETE TRAIN (R104). -/
def handleDeleteTrain (st : StationId) (handle : Nat) (s : State) : Handled :=
  match toId 48 handle with
  | none => unchanged s (plain .badRequest)
  | some h =>
    match tget s.trains h with
    | none => unchanged s (naming .noSuchItem (.train h))
    | some v => (⟨.done, .cleared (reservationsOf s h).length⟩, deleteTrainWork st h v s)

/-- Whether an edit is refused BAD REQUEST: no change is named, or a value fails the form tests (R105, check 2). -/
def editBad (e : TrainEdit) : Bool :=
  (e.headcode.isNone && e.kind.isNone && e.loco.isNone && e.dest.isNone && e.facing.isNone && !e.clearPassed)
    || e.kind == some none || (e.loco.map fun n => decide (9999 < n)).getD false
    || (e.dest.map fun d => decide (maxDest < d.length)).getD false

/-- The record after an edit (R105). -/
def Train.edited (e : TrainEdit) (v : Train) : Train :=
  { v with
    headcode := e.headcode.getD v.headcode
    kind := (e.kind.bind id).getD v.kind
    loco := match e.loco with
      | none => v.loco
      | some n => locoOf n
    dest := e.dest.getD v.dest
    facing := e.facing.or v.facing
    passed := v.passed && !e.clearPassed }

/-- The work of an accepted EDIT TRAIN: a change of headcode or destination text goes to the display unit (R105). -/
def editTrainWork (st : StationId) (h : TrainId) (v : Train) (e : TrainEdit) (s : State) : State :=
  let w := v.edited e
  let s1 := tellSupervisor st { s with trains := tput s.trains h (some w) }
  let s2 := if w.headcode = v.headcode then s1 else annHeadcode h w.headcode s1
  if w.dest = v.dest then s2 else annDestination h w.dest s2

/-- EDIT TRAIN (R105). The state found that its WRONG STATE reports is that the head is not on the deck (the model's choice,
log 52). -/
def handleEditTrain (st : StationId) (handle : Nat) (e : TrainEdit) (s : State) : Handled :=
  match toId 48 handle with
  | none => unchanged s (plain .badRequest)
  | some h =>
    if editBad e then unchanged s (plain .badRequest)
    else match tget s.trains h with
      | none => unchanged s (naming .noSuchItem (.train h))
      | some v =>
        if e.clearPassed = true ∧ st ≠ supervisor then unchanged s (plain .notPermitted)
        else if e.facing.isSome ∧ ¬ (v.head.isSome ∧ v.head = deckSection s) then unchanged s (wrongState .notOnDeck)
        else (plain .done, editTrainWork st h v e s)

/-- READ TRAIN (R106). The texts are given as they are stored (the model's choice, log 53). -/
def handleReadTrain (handle : Nat) (s : State) : Handled :=
  unchanged s <| match toId 48 handle with
    | none => plain .badRequest
    | some h => match tget s.trains h with
      | none => naming .noSuchItem (.train h)
      | some v => ⟨.done, .train v (reservationsOf s h)⟩

/-- The records that carry a headcode, compared as shown (R106). -/
def trainsCalled (s : State) (headcode : Headcode) : List TrainId :=
  idsWhere s.trains fun t => (t.map fun v => v.headcode.toList.map shown) == some (headcode.toList.map shown)

/-- One record as FIND TRAIN shows it (R106). -/
def foundTrain (s : State) (h : TrainId) : Option FoundTrain :=
  (tget s.trains h).map fun v => ⟨h, v.head, v.lost, v.passed⟩

/-- FIND TRAIN (R106). -/
def handleFindTrain (headcode : Headcode) (s : State) : Handled :=
  unchanged s <| match trainsCalled s headcode with
    | [] => plain .noSuchItem
    | l => ⟨.done, .trains (l.filterMap (foundTrain s))⟩

end Sys2Proof.Machine
end

