-- ==== Sys2Proof/Machine/TurntableRequests.lean ====
section
/-! DEFINITION. The turntable requests (R122, R125, R128 to R130) and the timers of the turntable (R115, R120). -/

namespace Sys2Proof.Machine

/-! ### TURNTABLE HOME (R122) -/

/-- The section that refuses homing: a pit-edge section that is not CLEAR, or a deck section that is UNKNOWN, or OCCUPIED
with no train head (R122, check 6; log 37). -/
def homeBlocked (s : State) (c : TurntableCfg) : Option SectionId :=
  if occOf s c.pit1 ≠ .clear then some c.pit1
  else if occOf s c.pit2 ≠ .clear then some c.pit2
  else if occOf s c.deck = .unknown ∨ (occOf s c.deck = .occupied ∧ headIn s c.deck = none) then some c.deck
  else none

/-- Enter HOMING with its HOME move, in the unbolt phase (R122, R123). -/
def startHoming (s : State) : State :=
  let (n, s1) := takeMoveNo s
  let m : Move := ⟨n, .home, some 0, none, none⟩
  turntableChanged (setTtOutputs (fun i => { i with ttDrive := .stop, ttBolt := .isOut })
    (setTt (fun t => { t with state := .homing, phase := some .unbolt, current := some m, stageTimer := some boltTime }) s1))

/-- TURNTABLE HOME (R122). -/
def handleHome (st : StationId) (s : State) : Handled :=
  if st ≠ supervisor then unchanged s (plain .notPermitted)
  else match s.tt.cfg with
    | none => unchanged s (naming .noSuchItem .turntable)
    | some c =>
      if s.tt.state ≠ .unknown ∧ s.tt.state ≠ .failed then unchanged s (wrongState (.turntable s.tt.state))
      else if boardPresent s c.board = false then unchanged s (naming .itemFailed .turntable)
      else match homeBlocked s c with
        | some n => unchanged s (naming .occupied (.sec n))
        | none => (⟨.accepted, .move s.tt.nextMoveNo none⟩, startHoming s)

/-! ### TURNTABLE MOVE (R125) -/

/-- The target of a move and its relative form, by the end that the request names; for the relative form the train on the
deck and its facing are needed, and the refusal says what is missing (R125, check 7). -/
def moveTarget (s : State) (c : TurntableCfg) (j : RoadId) : MoveEnd → Except Reply (Option RoadId × Option RelativeForm)
  | .a => .ok (some (endPosition j .a), none)
  | .b => .ok (some (endPosition j .b), none)
  | e =>
    match headIn s c.deck with
    | none => .error (naming .noSuchItem (.sec c.deck))
    | some t =>
      if ((tget s.trains t).bind (·.facing)).isNone then .error (naming .wrongState (.train t))
      else .ok (none, some ⟨t, e == .front, j⟩)

/-- TURNTABLE MOVE from a station with permission (R125, checks 5 to 8). -/
def movePermitted (st : StationId) (c : TurntableCfg) (j : RoadId) (e : MoveEnd) (s : State) : Handled :=
  if s.tt.state = .unknown ∨ s.tt.state = .failed then unchanged s (naming .itemFailed .turntable)
  else if s.tt.deckLock ≠ .free then unchanged s (naming .locked .deck)
  else match moveTarget s c j e with
    | .error y => unchanged s y
    | .ok (g, q) =>
      if moveQueueSize ≤ s.tt.queue.length then unchanged s (naming .queueFull .moveQueue)
      else (⟨.accepted, .move s.tt.nextMoveNo (some (s.tt.queue.length + 1))⟩,
        queueMove ⟨s.tt.nextMoveNo, .operator st, g, q, none⟩ s)

/-- TURNTABLE MOVE (R125). -/
def handleTurntableMove (st : StationId) (road : Nat) (moveEnd : Option MoveEnd) (s : State) : Handled :=
  match toId 24 road, moveEnd with
  | some j, some e =>
    match s.tt.cfg with
    | none => unchanged s (naming .noSuchItem .turntable)
    | some c =>
      if (tget c.roads j).isNone then unchanged s (naming .noSuchItem (.road j))
      else if passesTerritory s (.station st) (·.turntable) then movePermitted st c j e s
      else territoryRefused st codeTurntableMove .turntable s
  | _, _ => unchanged s (plain .badRequest)

/-! ### TURNTABLE RESET (R130) -/

/-- TURNTABLE RESET (R130). -/
def handleTurntableReset (st : StationId) (s : State) : Handled :=
  if st ≠ supervisor then unchanged s (plain .notPermitted)
  else if s.tt.cfg = none then unchanged s (naming .noSuchItem .turntable)
  else (plain .done, resetTurntable s)

/-! ### WITHDRAW MOVE (R128) -/

/-- A withdrawn move as its requester hears of it (R128). -/
def reportWithdrawn (st : StationId) (m : Move) (s : State) : State :=
  match m.kind with
  | .operator q => if st = supervisor then setFlag .turntable q s else s
  | .demo _ => busyEnds (.move m.number) s
  | .interlocking _ | .home => s

/-- Whether a station may withdraw a move (R128, check 5). -/
def mayWithdraw (st : StationId) (m : Move) : Bool :=
  match m.kind with
  | .operator q => st == supervisor || st == q
  | _ => st == supervisor

/-- A move for the interlocking. -/
def Move.isInterlocking (m : Move) : Bool :=
  match m.kind with
  | .interlocking _ => true
  | _ => false

/-- WITHDRAW MOVE for a queued move (R128, checks 4 and 5). R128 names no state found for its WRONG STATE: that of a queued
INTERLOCKING move is a value of its own (the model's choice, log 62). -/
def withdrawQueued (st : StationId) (m : Move) (s : State) : Handled :=
  if m.isInterlocking then unchanged s (wrongState .moveInterlocking)
  else if mayWithdraw st m = false then unchanged s (plain .notPermitted)
  else (plain .done,
    considerMove (reportWithdrawn st m (setQueue (s.tt.queue.eraseP fun x => x.number == m.number) s)))

/-- WITHDRAW MOVE (R128). Of two moves with one number the current one is found first, then the one nearest the head of the
queue (the model's choice, log 55). R128 names no state found for its WRONG STATE: that of the current move, an INTERLOCKING
one included, is that it runs (the model's choice, log 62). -/
def handleWithdrawMove (st : StationId) (number : Nat) (s : State) : Handled :=
  if 255 < number then unchanged s (plain .badRequest)
  else
    let n := BitVec.ofNat 8 number
    if s.tt.current.map (·.number) = some n then unchanged s (wrongState .moveRunning)
    else match s.tt.queue.find? fun m => m.number == n with
      | none => unchanged s (naming .noSuchItem (.move n))
      | some m => withdrawQueued st m s

/-! ### READ TURNTABLE (R129) -/

/-- A move as READ TURNTABLE shows it. -/
def moveView (remaining : Timer) (m : Move) : MoveView := ⟨m.number, m.kind, m.target, m.relative, remaining.tenths⟩

/-- The whole detail of READ TURNTABLE. -/
def turntableView (s : State) : TurntableView :=
  let t := s.tt
  { state := t.state, phase := t.phase, stepsCounted := if t.state = .homing then some t.stepsCounted else none
    position := t.position, lastPosition := t.lastPosition, deckLock := t.deckLock, interrupted := t.interrupted
    current := t.current.map (moveView t.stageTimer), queue := t.queue.map fun m => moveView m.waitTimer m
    train := deckHead s, facing := (deckHead s).bind fun h => (tget s.trains h).bind (·.facing) }

/-- READ TURNTABLE (R129). -/
def handleReadTurntable (s : State) : Handled :=
  unchanged s (if s.tt.cfg = none then naming .noSuchItem .turntable else ⟨.done, .turntable (turntableView s)⟩)

/-! ### Timers -/

/-- The wait timer of the head move expires: the move is dropped and reported (R115). -/
def waitExpires (s : State) : State :=
  match s.tt.queue with
  | [] => s
  | m :: rest => if m.waitTimer = none then s else considerMove (reportMove m (setQueue rest s))

/-- The stage timer expires: the turntable enters FAILED (R120). -/
def stageExpires (s : State) : State := if s.tt.stageTimer = none then s else enterFailed s

end Sys2Proof.Machine
end

