-- ==== Sys2Proof/Machine/DisplayRequests.lean ====
section
/-! DEFINITION. The announcement requests (R140 to R143) and the linger timer (R137). -/

namespace Sys2Proof.Machine

/-- The length of a time text (R132). -/
def timeLength : Nat := 5

/-- The capacity of a board's list (R132). -/
def boardListSize : Nat := 8

/-- A destination text that is too long (R140, check 2). -/
def destTooLong (t : List Byte) : Bool := decide (maxDest < t.length)

/-- The announcements in WAITING or READY on the same board for the same train and platform signal (R140, R141), in
ascending order. A CONFLICT names the first of them (the model's choice, log 56). -/
def sameAnnouncement (s : State) (b : DepBoardId) (t : TrainId) (sg : SignalId) : List AnnId :=
  idsWhere s.announcements fun a => match a with
    | none => false
    | some a => a.board == b && a.train == some t && a.signal == sg && (a.state == .waiting || a.state == .ready)

/-- The FREE announcement entries in ascending order. -/
def freeAnnouncements (s : State) : List AnnId := idsWhere s.announcements (·.isNone)

/-- The state of an announcement by its condition (R134, R140, R141). -/
def annStateFor (s : State) (sg : SignalId) (t : Option TrainId) : AnnState :=
  if annCondition s sg t then .ready else .waiting

/-- The announcement that an accepted ANNOUNCE makes (R140). -/
def newAnnouncement (s : State) (b : DepBoardId) (t : TrainId) (v : Train) (sg : SignalId) (time : List Byte)
    (dest : Option (List Byte)) : Announcement :=
  { board := b, train := some t, headcode := v.headcode, signal := sg, time := time, dest := dest.getD v.dest
    source := if dest.isSome then .own else .train, state := annStateFor s sg (some t), linger := none }

/-- Create an announcement at the tail of its board's list (R133, R140). -/
def createAnn (n : AnnId) (a : Announcement) (s : State) : State :=
  putAnn n a { s with
    announcements := tput s.announcements n (some a)
    depBoards := tupd s.depBoards a.board fun e => { e with list := e.list ++ [n] } }

/-- ANNOUNCE once its board, train and signal are found (R140, checks 4 to 6). -/
def announceFound (st : StationId) (b : DepBoardId) (t : TrainId) (v : Train) (sg : SignalId) (time : List Byte)
    (dest : Option (List Byte)) (s : State) : Handled :=
  if passesTerritory s (.station st) (·.board b) = false then territoryRefused st codeAnnounce (.depBoard b) s
  else match sameAnnouncement s b t sg with
    | other :: _ => unchanged s (naming .conflict (.ann other))
    | [] =>
      let k := (tget s.depBoards b).list.length
      if boardListSize ≤ k then unchanged s (naming .tableFull (.depBoard b))
      else match freeAnnouncements s with
        | [] => unchanged s (naming .tableFull .announcementTable)
        | n :: _ => (⟨.done, .announced n k⟩, createAnn n (newAnnouncement s b t v sg time dest) s)

/-- ANNOUNCE (R140). Where more than one of the board, the train and the signal fails check 3, the detail names the first of
them in that order (the model's choice, log 63). -/
def handleAnnounce (st : StationId) (board train signal : Nat) (time : List Byte) (dest : Option (List Byte)) (s : State) :
    Handled :=
  match toId 4 board, toId 48 train, toId 128 signal with
  | some b, some t, some sg =>
    if time.length ≠ timeLength ∨ (dest.map destTooLong).getD false = true then unchanged s (plain .badRequest)
    else if (tget s.depBoards b).addr = none then unchanged s (naming .noSuchItem (.depBoard b))
    else match tget s.trains t with
      | none => unchanged s (naming .noSuchItem (.train t))
      | some v =>
        if (tget s.signals sg).cfg = none then unchanged s (naming .noSuchItem (.signal sg))
        else announceFound st b t v sg time dest s
  | _, _, _ => unchanged s (plain .badRequest)

/-! ### EDIT ANNOUNCEMENT (R141) -/

/-- A new destination that is too long. -/
def destEditBad : DestEdit → Bool
  | .own t | .both t => destTooLong t
  | .train => false

/-- Whether an edit is refused BAD REQUEST (R141, check 2). -/
def annEditBad (e : AnnEdit) : Bool :=
  (e.time.isNone && e.dest.isNone && e.signal.isNone) || (e.time.map fun t => decide (t.length ≠ timeLength)).getD false
    || (e.dest.map destEditBad).getD false || (e.signal.map fun n => decide (128 ≤ n)).getD false

/-- The destination text of an announcement's train. -/
def annTrainDest (s : State) (a : Announcement) : List Byte :=
  ((a.train.bind fun t => tget s.trains t).map (·.dest)).getD []

/-- The source that an edit's destination changes leave: none where no change is named, and where both are named a free
value, drawn as the change is made (R141; log 57). -/
def sourceAfter (s : State) : Option DestEdit → Option DestSource
  | none => none
  | some (.own _) => some .own
  | some .train => some .train
  | some (.both _) => some (if Config.ownTextStands s.freeCtr then .own else .train)

/-- The text of its own that an edit gives. -/
def ownText : Option DestEdit → List Byte
  | some (.own t) | some (.both t) => t
  | some .train | none => []

/-- The state after the draw that an edit makes (log 57). -/
def sourceDrawn (e : AnnEdit) (s : State) : State :=
  match e.dest with
  | some (.both _) => { s with freeCtr := s.freeCtr + 1 }
  | _ => s

/-- The announcement after an edit (R141); a change of platform signal tests the condition afresh (R134). -/
def annEdited (s : State) (e : AnnEdit) (sg : Option SignalId) (a : Announcement) : Announcement :=
  { a with
    time := e.time.getD a.time
    dest := match sourceAfter s e.dest with
      | none => a.dest
      | some .own => ownText e.dest
      | some .train => annTrainDest s a
    source := (sourceAfter s e.dest).getD a.source
    signal := sg.getD a.signal
    state := match sg with
      | none => a.state
      | some x => annStateFor s x a.train }

/-- The announcement that a new platform signal would repeat (R141, check 6). -/
def annRepeats (s : State) (n : AnnId) (a : Announcement) (sg : Option SignalId) : Option AnnId :=
  match sg, a.train with
  | some x, some t => ((sameAnnouncement s a.board t x).filter (· ≠ n)).head?
  | _, _ => none

/-- EDIT ANNOUNCEMENT once the announcement is found (R141, checks 3 to 6). -/
def editAnnFound (st : StationId) (n : AnnId) (a : Announcement) (e : AnnEdit) (s : State) : Handled :=
  let sg := e.signal.bind (toId 128)
  if (sg.map fun x => (tget s.signals x).cfg.isNone).getD false then
    unchanged s ((sg.map fun x => naming .noSuchItem (.signal x)).getD (plain .noSuchItem))
  else if passesTerritory s (.station st) (·.board a.board) = false then
    territoryRefused st codeEditAnnouncement (.depBoard a.board) s
  else if a.state = .departed ∨ a.state = .cancelled then unchanged s (wrongState (.ann a.state))
  else match annRepeats s n a sg with
    | some other => unchanged s (naming .conflict (.ann other))
    | none =>
      let a1 := annEdited s e sg a
      (⟨.done, .annState a1.state⟩, putAnn n a1 (sourceDrawn e s))

/-- EDIT ANNOUNCEMENT (R141). Where the entry is FREE and the new platform signal absent, the detail of check 3 names the
announcement (the model's choice, log 63). -/
def handleEditAnn (st : StationId) (n : Nat) (e : AnnEdit) (s : State) : Handled :=
  match toId 32 n with
  | none => unchanged s (plain .badRequest)
  | some k =>
    if annEditBad e then unchanged s (plain .badRequest)
    else match tget s.announcements k with
      | none => unchanged s (naming .noSuchItem (.ann k))
      | some a => editAnnFound st k a e s

/-! ### WITHDRAW ANNOUNCEMENT and READ BOARD -/

/-- WITHDRAW ANNOUNCEMENT (R142). -/
def handleWithdrawAnn (st : StationId) (n : Nat) (s : State) : Handled :=
  match toId 32 n with
  | none => unchanged s (plain .badRequest)
  | some k =>
    match tget s.announcements k with
    | none => unchanged s (naming .noSuchItem (.ann k))
    | some a =>
      if passesTerritory s (.station st) (·.board a.board) then (plain .done, retireAnn k s)
      else territoryRefused st codeWithdrawAnnouncement (.depBoard a.board) s

/-- The announcement at a line as READ BOARD shows it (R143). Its destination text is given as it is stored (the model's
choice, log 53). -/
def annView (s : State) (n : AnnId) : Option AnnView :=
  (tget s.announcements n).map fun a => ⟨n, a.train, a.signal, a.state, a.source, a.dest, a.linger.tenths⟩

/-- READ BOARD (R143). -/
def handleReadBoard (board line : Nat) (s : State) : Handled :=
  unchanged s <| match toId 4 board, toId 8 line with
    | some b, some l =>
      let e := tget s.depBoards b
      match e.addr with
      | none => naming .noSuchItem (.depBoard b)
      | some a => ⟨.done, .board (tget e.lines l) (boardPresent s a) e.list.length (e.list[l.val]?.bind (annView s))⟩
    | _, _ => plain .badRequest

/-- The linger timer expires: the announcement is retired (R137). -/
def lingerExpires (n : AnnId) (s : State) : State :=
  if ((tget s.announcements n).bind (·.linger)).isSome then retireAnn n s else s

/-! ### The timers of a button (R146, R147) -/

/-- The lamp timer expires: a NOT_NOW button goes READY (R146). -/
def lampExpires (b : ButtonId) (s : State) : State :=
  if (tget s.buttons b).lampTimer = none then s
  else setButtonState b .ready { s with buttons := tupd s.buttons b fun e => { e with lampTimer := none } }

/-- The cooldown timer expires: the button goes READY (R147). -/
def cooldownExpires (b : ButtonId) (s : State) : State :=
  if (tget s.buttons b).cooldownTimer = none then s
  else setButtonState b .ready { s with buttons := tupd s.buttons b fun e => { e with cooldownTimer := none } }

end Sys2Proof.Machine
end

