-- ==== Sys2Proof/Machine/RouteRequests.lean ====
section
/-! DEFINITION. The other route requests (R51, R72, R80, R86) and the timers of a reservation (R77, R85, R87, R88). -/

namespace Sys2Proof.Machine

/-! ### CANCEL ROUTE (R80) -/

/-- The answer of a cancel, by the state reached. `before` is the reservation's definition. -/
def cancelReply (s : State) (r : ResId) (d : RouteDef) : Reply :=
  match (getRes s r).map Reservation.state with
  | some .approachHeld => ⟨.accepted, .held d.approachTime⟩
  | some .cancelling => ⟨.accepted, .cancelling (throwsInFlight s r).length (moveInFlight s r)⟩
  | _ => ⟨.done, .retired⟩

/-- Whether a reservation may be cancelled: OPEN, PROVED or SETTING (R80). -/
def mayCancel (x : ResState) : Bool := x == .opened || x == .proved || x == .setting

/-- CANCEL ROUTE (R80). -/
def handleCancel (st : StationId) (res : Nat) (s : State) : Handled :=
  match toId 64 res with
  | none => unchanged s (plain .badRequest)
  | some r =>
    match resDef s r with
    | none => unchanged s (naming .noSuchItem (.res r))
    | some (v, d) =>
      if ownsOrSupervises st v = false then unchanged s (plain .notPermitted)
      else if mayCancel v.state = false then unchanged s (wrongState (.res v.state))
      else (cancelReply (cancel r s) r d, cancel r s)

/-! ### EMERGENCY RELEASE (R86) -/

/-- The reservation as it goes RELEASING: the origin is recorded, the emergency timer starts, the approach timer stops, and
the overlap timer runs on only from TRAVERSED. -/
def Reservation.releasing (t : Timing) (v : Reservation) : Reservation :=
  { v with
    releaseOrigin := some v.state, approachTimer := none, emergencyTimer := some t.emergencyTime
    overlapTimer := if v.state = .traversed then v.overlapTimer else none }

/-- The work of an accepted EMERGENCY RELEASE (R86). -/
def emergencyWork (r : ResId) (s : State) : State :=
  let s1 := changeState r .releasing (updRes r (Reservation.releasing s.timing) s)
  let s2 := withdrawWork r s1
  if moveInFlight s2 r then releaseDeck r s2 else s2

/-- EMERGENCY RELEASE (R86). -/
def handleEmergency (st : StationId) (res : Nat) (s : State) : Handled :=
  if st ≠ supervisor then unchanged s (plain .notPermitted)
  else match toId 64 res with
    | none => unchanged s (plain .badRequest)
    | some r =>
      match getRes s r with
      | none => unchanged s (naming .noSuchItem (.res r))
      | some v =>
        if v.state = .releasing then unchanged s (wrongState (.res .releasing))
        else (⟨.accepted, .emergency s.timing.emergencyTime⟩, emergencyWork r s)

/-! ### READ RESERVATION (R72) -/

/-- READ RESERVATION's detail. -/
def reservationView (s : State) (r : ResId) (v : Reservation) : ReservationView :=
  let d := slotDef s v.slot
  { slot := v.slot, entrance := d.map (·.entrance), exit := d.map (·.exit), owner := v.owner, train := v.train
    state := v.state, hasBeenOpen := v.hasBeenOpen, releaseOrigin := v.releaseOrigin, settingCursor := v.settingCursor
    requirementCount := ((d.map fun d => (reqElems v d).length)).getD 0, releaseCursor := v.releaseCursor
    overlapReleased := v.overlapReleased, deckHold := deckHoldOf s r, approachTimer := v.approachTimer.tenths
    overlapTimer := v.overlapTimer.tenths, emergencyTimer := v.emergencyTimer.tenths, demoHold := v.demoHold.tenths
    fault := v.fault }

/-- READ RESERVATION (R72). -/
def handleReadReservation (res : Nat) (s : State) : Handled :=
  unchanged s <| match toId 64 res with
    | none => plain .badRequest
    | some r => match getRes s r with
      | none => naming .noSuchItem (.res r)
      | some v => ⟨.done, .reservation (reservationView s r v)⟩

/-! ### READ ROUTES FROM SIGNAL (R51) -/

/-- One entry of the list form. -/
def routeView (s : State) (n : SlotId) : Option RouteView :=
  (slotDef s n).map fun d =>
    ⟨n, d.exit, d.cls, d.path.length, d.overlap.length, (tget s.slots n).writing, slotUser s n⟩

/-- The most entries that one answer of the list form holds. -/
def routesPerAnswer : Nat := 16

/-- The list form. -/
def routesList (s : State) (sg : SignalId) (start : Nat) : Reply :=
  let l := signalList s sg
  ⟨.done, .routes l.length (((l.drop start).take routesPerAnswer).filterMap (routeView s))⟩

/-- The detail form. -/
def routeDetail (s : State) (sg : SignalId) (n : SlotId) : Reply :=
  match slotDef s n with
  | none => plain .noSuchRoute
  | some d =>
    if d.entrance = sg then ⟨.done, .route d (tget s.slots n).writing (slotUser s n)⟩ else plain .noSuchRoute

/-- A configured signal out of a number, or the refusal. -/
def namedSignal (s : State) (n : Nat) : Except Reply SignalId :=
  match toId 128 n with
  | none => .error (plain .badRequest)
  | some sg => if (tget s.signals sg).cfg.isNone then .error (naming .noSuchItem (.signal sg)) else .ok sg

/-- READ ROUTES FROM SIGNAL (R51). -/
def handleReadRoutes (form : RoutesForm) (s : State) : Handled :=
  unchanged s <| match form with
    | .list n start => match namedSignal s n with
      | .error y => y
      | .ok sg => routesList s sg start
    | .detail n slot => match toId 512 slot with
      | none => plain .badRequest
      | some k => match namedSignal s n with
        | .error y => y
        | .ok sg => routeDetail s sg k

/-! ### The timers of a reservation -/

/-- The overlap timer expires: the overlap is released (R77, R78). -/
def overlapExpires (r : ResId) (s : State) : State :=
  match (getRes s r).bind (·.overlapTimer) with
  | none => s
  | some _ => retireIfDone r (releaseOverlap r s)

/-- The approach timer expires: the reservation is retired (R85). -/
def approachExpires (r : ResId) (s : State) : State :=
  match (getRes s r).bind (·.approachTimer) with
  | none => s
  | some _ => retire r s

/-- The emergency timer expires: the reservation is retired (R87). -/
def emergencyExpires (r : ResId) (s : State) : State :=
  match (getRes s r).bind (·.emergencyTimer) with
  | none => s
  | some _ => retire r s

/-- The demonstration hold timer expires: a reservation in OPEN or PROVED is cancelled (R88). -/
def demoHoldExpires (r : ResId) (s : State) : State :=
  match (getRes s r).bind (fun v => v.demoHold.map fun _ => v.state) with
  | none => s
  | some x =>
    let s1 := updRes r (fun v => { v with demoHold := none }) s
    if x = .opened ∨ x = .proved then cancel r s1 else s1

end Sys2Proof.Machine
end

