-- ==== Sys2Proof/Machine/Supervision.lean ====
section
/-! DEFINITION. READ EVENTS (R168), READ STATUS (R169), LAYOUT RESET (R172) and the chip reset (R173). -/

namespace Sys2Proof.Machine

/-- READ EVENTS (R168): exactly the flags reported are cleared. -/
def handleReadEvents (st : StationId) (s : State) : Handled := (⟨.done, .events (flagsOf s st)⟩, clearFlags st s)

/-- READ STATUS's detail (R169). -/
def statusView (s : State) : StatusView :=
  { loadState := s.loadState, storeDamaged := s.storeDamaged, imageVersion := s.imageVersion
    writing := s.write.isSome, lastStoreResult := s.lastStoreResult
    definedSlots := slotCount s SlotStatus.isDefined, damagedSlots := slotCount s SlotStatus.isDamaged
    rejectedSlots := slotCount s SlotStatus.isRejected, linkRate := s.linkRate, openDay := s.openDay
    liveReservations := (liveReservations s).length, demoReservations := demoReservations s
    trains := (idsWhere s.trains (·.isSome)).length, announcements := (idsWhere s.announcements (·.isSome)).length
    queuedThrows := s.throwQueue.length, movingThrows := throwsInMotion s, turntable := s.tt.state
    interrupted := s.tt.interrupted
    stations := ((List.finRange 15).filter (isEnrolled s)).map fun st => (st, (tget s.stations st).present)
    boards := (idsWhere s.boards fun b => b.type.isSome).map fun a => (a, (tget s.boards a).state)
    lastRefusal := s.panelLink.lastRefusal }

/-- READ STATUS (R169). -/
def handleReadStatus (s : State) : Handled := unchanged s ⟨.done, .status (statusView s)⟩

/-- LAYOUT RESET (R172): answered DONE before the reset is carried out. -/
def handleLayoutReset (st : StationId) (s : State) : Handled :=
  if st ≠ supervisor then unchanged s (plain .notPermitted) else (plain .done, { s with layoutResetDue := true })

/-- The RESET pin goes active, or power comes on: nothing is sent on either link or on the store port, and a load and a
store write in progress are abandoned (R173, R178). The last RESPONSE and the attention level last sampled are records, and
stand with the other tables until the reset ends (the model's reading, log 14). -/
def resetAsserted (s : State) : State :=
  let s1 := abandonWrite s
  { s1 with
    resetHeld := true, loader := .idle, lastStoreResult := none
    fieldLink := { s1.fieldLink with outstanding := .quiet }, panelLink := { s1.panelLink with polled := none } }

/-- The chip reset ends (R173): the straps are latched, every block takes its chip reset values, and the loader and the
polling begin. -/
def chipResetEnds (straps : BitVec 2) (s : State) : State :=
  let s1 := abandonWrite s
  State.afterChipReset straps s1.store s1.torn s1.freeCtr s1.pending

/-- While RESET is held the part takes nothing (R173; log 14). -/
def unlessHeld (f : State → State) (s : State) : State := if s.resetHeld then s else f s

end Sys2Proof.Machine
end

