-- ==== Sys2Proof/Machine/Deck.lean ====
section
/-! DEFINITION. The turntable commands (R108 to R131). One meaning for each command. -/

namespace Sys2Proof.Machine

/-- READ TURNTABLE (R129). -/
def execReadTurntable (st : StationId) (tag : Byte) (s : State) : Host.Outcome State Fault Refusal :=
  .next (unlessHeld (takeRequest st tag codeReadTurntable (whenReady handleReadTurntable)) s)

/-- TURNTABLE HOME (R122). -/
def execTurntableHome (st : StationId) (tag : Byte) (s : State) : Host.Outcome State Fault Refusal :=
  .next (unlessHeld (takeRequest st tag codeTurntableHome (whenReady (handleHome st))) s)

/-- TURNTABLE MOVE (R125). -/
def execTurntableMove (st : StationId) (tag : Byte) (road : Nat) (moveEnd : Option MoveEnd)
    (s : State) : Host.Outcome State Fault Refusal :=
  .next (unlessHeld (takeRequest st tag codeTurntableMove (whenReady (handleTurntableMove st road moveEnd))) s)

/-- TURNTABLE RESET (R130). -/
def execTurntableReset (st : StationId) (tag : Byte) (s : State) : Host.Outcome State Fault Refusal :=
  .next (unlessHeld (takeRequest st tag codeTurntableReset (whenReady (handleTurntableReset st))) s)

/-- WITHDRAW MOVE (R128). -/
def execWithdrawMove (st : StationId) (tag : Byte) (number : Nat) (s : State) : Host.Outcome State Fault Refusal :=
  .next (unlessHeld (takeRequest st tag codeWithdrawMove (whenReady (handleWithdrawMove st number))) s)

/-- WAIT TIMER EXPIRY (R115). -/
def execWaitTimerExpiry (s : State) : Host.Outcome State Fault Refusal :=
  .next (unlessHeld waitExpires s)

/-- STAGE TIMER EXPIRY (R116 to R118, R120, R123). -/
def execStageTimerExpiry (s : State) : Host.Outcome State Fault Refusal :=
  .next (unlessHeld stageExpires s)

end Sys2Proof.Machine
end

