-- ==== Sys2Proof/Machine/Field.lean ====
section
/-! DEFINITION. The field link's commands (R150 to R158). One meaning for each command. -/

namespace Sys2Proof.Machine

/-- IMAGE (R151, R152). -/
def execImage (board : BoardIdx) (inputs : BoardInputs) (attention : Bool)
    (s : State) : Host.Outcome State Fault Refusal :=
  .next (unlessHeld (takeImage board inputs attention) s)

/-- REPORT (R153). -/
def execReport (board : BoardIdx) (inputs : BoardInputs) (s : State) : Host.Outcome State Fault Refusal :=
  .next (unlessHeld (takeReport board inputs) s)

/-- BAD REPORT: no miss is counted (R153). -/
def execBadReport (s : State) : Host.Outcome State Fault Refusal :=
  .next (unlessHeld grantEnds s)

/-- GRANT TIMEOUT (R153). -/
def execGrantTimeout (s : State) : Host.Outcome State Fault Refusal :=
  .next (unlessHeld grantEnds s)

/-- LINE TAKEN (R154). -/
def execLineTaken (board : BoardIdx) (line : LineNo) (attention : Bool)
    (s : State) : Host.Outcome State Fault Refusal :=
  .next (unlessHeld (takeLineTaken board line attention) s)

/-- FIELD ANSWER TIMEOUT (R151, R155). -/
def execFieldAnswerTimeout (attention : Bool) (s : State) : Host.Outcome State Fault Refusal :=
  .next (unlessHeld (exchangeMissed attention) s)

/-- FIELD BAD ANSWER (R151, R155). -/
def execFieldBadAnswer (attention : Bool) (s : State) : Host.Outcome State Fault Refusal :=
  .next (unlessHeld (exchangeMissed attention) s)

/-- BOARD REPOLL EXPIRY (R156). -/
def execBoardRepollExpiry (board : BoardIdx) (s : State) : Host.Outcome State Fault Refusal :=
  .next (unlessHeld (boardRepollExpires board) s)

end Sys2Proof.Machine
end

