-- ==== Sys2Proof/Machine/PanelLink.lean ====
section
/-! DEFINITION. The panel link's own commands: replies, misses and re-polls (R159 to R163), READ EVENTS and READ STATUS. One meaning for each command. -/

namespace Sys2Proof.Machine

/-- IDLE (R161). -/
def execIdle (st : StationId) (s : State) : Host.Outcome State Fault Refusal :=
  .next (unlessHeld (takeIdle st) s)

/-- POLL REPLY TIMEOUT (R161, R163). -/
def execPollReplyTimeout (s : State) : Host.Outcome State Fault Refusal :=
  .next (unlessHeld pollMissed s)

/-- REPLY BYTE PAUSE TIMEOUT (R159, R163). -/
def execReplyBytePauseTimeout (s : State) : Host.Outcome State Fault Refusal :=
  .next (unlessHeld pollMissed s)

/-- PANEL BAD REPLY (R161, R163). -/
def execPanelBadReply (s : State) : Host.Outcome State Fault Refusal :=
  .next (unlessHeld pollMissed s)

/-- STATION REPOLL EXPIRY (R161). -/
def execStationRepollExpiry (st : StationId) (s : State) : Host.Outcome State Fault Refusal :=
  .next (unlessHeld (stationRepollExpires st) s)

/-- UNKNOWN REQUEST (R162). -/
def execUnknownRequest (st : StationId) (tag code : Byte) (s : State) : Host.Outcome State Fault Refusal :=
  .next (unlessHeld (takeRequest st tag code fun s => unchanged s (plain .badRequest)) s)

/-- READ EVENTS (R168). -/
def execReadEvents (st : StationId) (tag : Byte) (s : State) : Host.Outcome State Fault Refusal :=
  .next (unlessHeld (takeRequest st tag codeReadEvents (whenReady (handleReadEvents st))) s)

/-- READ STATUS (R169). -/
def execReadStatus (st : StationId) (tag : Byte) (s : State) : Host.Outcome State Fault Refusal :=
  .next (unlessHeld (takeRequest st tag codeReadStatus (always handleReadStatus)) s)

end Sys2Proof.Machine
end

