-- ==== Sys2Proof/Machine/Public.lean ====
section
/-! DEFINITION. The commands of departure boards and buttons (R132 to R149). One meaning for each command. -/

namespace Sys2Proof.Machine

/-- ANNOUNCE (R140). -/
def execAnnounce (st : StationId) (tag : Byte) (board train signal : Nat) (time : List Byte) (dest : Option (List Byte))
    (s : State) : Host.Outcome State Fault Refusal :=
  .next (unlessHeld (takeRequest st tag codeAnnounce (whenReady (handleAnnounce st board train signal time dest))) s)

/-- EDIT ANNOUNCEMENT (R141). -/
def execEditAnnouncement (st : StationId) (tag : Byte) (n : Nat) (edit : AnnEdit)
    (s : State) : Host.Outcome State Fault Refusal :=
  .next (unlessHeld (takeRequest st tag codeEditAnnouncement (whenReady (handleEditAnn st n edit))) s)

/-- READ BOARD (R143). -/
def execReadBoard (st : StationId) (tag : Byte) (board line : Nat) (s : State) : Host.Outcome State Fault Refusal :=
  .next (unlessHeld (takeRequest st tag codeReadBoard (whenReady (handleReadBoard board line))) s)

/-- READ BUTTONS (R149). -/
def execReadButtons (st : StationId) (tag : Byte) (s : State) : Host.Outcome State Fault Refusal :=
  .next (unlessHeld (takeRequest st tag codeReadButtons (whenReady handleReadButtons)) s)

/-- SET OPEN DAY (R148). -/
def execSetOpenDay (st : StationId) (tag : Byte) (value : Option Bool)
    (s : State) : Host.Outcome State Fault Refusal :=
  .next (unlessHeld (takeRequest st tag codeSetOpenDay (whenReady (handleSetOpenDay st value))) s)

/-- WITHDRAW ANNOUNCEMENT (R142). -/
def execWithdrawAnnouncement (st : StationId) (tag : Byte) (n : Nat) (s : State) : Host.Outcome State Fault Refusal :=
  .next (unlessHeld (takeRequest st tag codeWithdrawAnnouncement (whenReady (handleWithdrawAnn st n))) s)

/-- LINGER EXPIRY (R137). -/
def execLingerExpiry (n : AnnId) (s : State) : Host.Outcome State Fault Refusal :=
  .next (unlessHeld (lingerExpires n) s)

/-- LAMP TIMER EXPIRY (R146). -/
def execLampTimerExpiry (b : ButtonId) (s : State) : Host.Outcome State Fault Refusal :=
  .next (unlessHeld (lampExpires b) s)

/-- COOLDOWN EXPIRY (R147). -/
def execCooldownExpiry (b : ButtonId) (s : State) : Host.Outcome State Fault Refusal :=
  .next (unlessHeld (cooldownExpires b) s)

end Sys2Proof.Machine
end

