-- ==== Sys2Proof/Machine/Routes.lean ====
section
/-! DEFINITION. The route commands: SET, CANCEL, RETRY, EMERGENCY and the reservation timers (R51, R56 to R90). One meaning for each command. -/

namespace Sys2Proof.Machine

/-- CANCEL ROUTE (R80 to R83). -/
def execCancelRoute (st : StationId) (tag : Byte) (res : Nat) (s : State) : Host.Outcome State Fault Refusal :=
  .next (unlessHeld (takeRequest st tag codeCancelRoute (whenReady (handleCancel st res))) s)

/-- EMERGENCY RELEASE (R86). -/
def execEmergencyRelease (st : StationId) (tag : Byte) (res : Nat) (s : State) : Host.Outcome State Fault Refusal :=
  .next (unlessHeld (takeRequest st tag codeEmergencyRelease (whenReady (handleEmergency st res))) s)

/-- READ RESERVATION (R72). -/
def execReadReservation (st : StationId) (tag : Byte) (res : Nat) (s : State) : Host.Outcome State Fault Refusal :=
  .next (unlessHeld (takeRequest st tag codeReadReservation (whenReady (handleReadReservation res))) s)

/-- READ ROUTES FROM SIGNAL (R51). -/
def execReadRoutesFromSignal (st : StationId) (tag : Byte) (form : RoutesForm)
    (s : State) : Host.Outcome State Fault Refusal :=
  .next (unlessHeld (takeRequest st tag codeReadRoutes (whenReady (handleReadRoutes form))) s)

/-- RETRY ROUTE (R70). -/
def execRetryRoute (st : StationId) (tag : Byte) (res : Nat) (s : State) : Host.Outcome State Fault Refusal :=
  .next (unlessHeld (takeRequest st tag codeRetryRoute (whenReady (handleRetry st res))) s)

/-- SET ROUTE (R58 to R63). -/
def execSetRoute (st : StationId) (tag : Byte) (entrance : Nat) (exit : ExitParam)
    (s : State) : Host.Outcome State Fault Refusal :=
  .next (unlessHeld (takeRequest st tag codeSetRoute (whenReady (handleSetRoute st entrance exit))) s)

/-- SET THROUGH ROUTE (R71). -/
def execSetThroughRoute (st : StationId) (tag : Byte) (signals : List Nat)
    (s : State) : Host.Outcome State Fault Refusal :=
  .next (unlessHeld (takeRequest st tag codeSetThroughRoute (whenReady (handleSetThrough st signals))) s)

/-- OVERLAP TIMER EXPIRY (R77, R78). -/
def execOverlapTimerExpiry (r : ResId) (s : State) : Host.Outcome State Fault Refusal :=
  .next (unlessHeld (overlapExpires r) s)

/-- APPROACH TIMER EXPIRY (R85). -/
def execApproachTimerExpiry (r : ResId) (s : State) : Host.Outcome State Fault Refusal :=
  .next (unlessHeld (approachExpires r) s)

/-- EMERGENCY TIMER EXPIRY (R87). -/
def execEmergencyTimerExpiry (r : ResId) (s : State) : Host.Outcome State Fault Refusal :=
  .next (unlessHeld (emergencyExpires r) s)

/-- DEMONSTRATION HOLD EXPIRY (R88). -/
def execDemonstrationHoldExpiry (r : ResId) (s : State) : Host.Outcome State Fault Refusal :=
  .next (unlessHeld (demoHoldExpires r) s)

end Sys2Proof.Machine
end

