-- ==== Sys2Proof/Machine/StartUp.lean ====
section
/-! DEFINITION. Start-up, resets, the load and the store: R173 to R179. One meaning for each command. -/

namespace Sys2Proof.Machine

/-- CHIP RESET (R173). -/
def execChipReset (straps : BitVec 2) (s : State) : Host.Outcome State Fault Refusal :=
  .next (chipResetEnds straps s)

/-- CHIP RESET ASSERTED (R173, R178). -/
def execChipResetAsserted (s : State) : Host.Outcome State Fault Refusal :=
  .next (resetAsserted s)

/-- LAYOUT RESET (R172, R174). -/
def execLayoutReset (st : StationId) (tag : Byte) (s : State) : Host.Outcome State Fault Refusal :=
  .next (unlessHeld (takeRequest st tag codeLayoutReset (whenNotLoading (handleLayoutReset st))) s)

/-- LAYOUT RESET CARRIED OUT (R174). -/
def execLayoutResetCarriedOut (s : State) : Host.Outcome State Fault Refusal :=
  .next (unlessHeld (fun s => if s.layoutResetDue then layoutResetDone s else s) s)

/-- LOAD HEADER READ (R175). -/
def execLoadHeaderRead (s : State) : Host.Outcome State Fault Refusal :=
  .next (unlessHeld (fun s => match s.loader with
    | .header => headerRead s
    | _ => s) s)

/-- LOAD CONFIG BLOCK READ (R175). -/
def execLoadConfigBlockRead (s : State) : Host.Outcome State Fault Refusal :=
  .next (unlessHeld (fun s => match s.loader with
    | .block k failed => blockTakenAs k failed (blockFails s k) s
    | _ => s) s)

/-- LOAD ROUTE SLOT READ (R176, R45). -/
def execLoadRouteSlotRead (s : State) : Host.Outcome State Fault Refusal :=
  .next (unlessHeld (fun s => match s.loader with
    | .slot n => slotRead n s
    | _ => s) s)

/-- STORE ACK TIMEOUT (R175, R176, R177). -/
def execStoreAckTimeout (s : State) : Host.Outcome State Fault Refusal :=
  .next (unlessHeld ackTimeout s)

/-- STORE PAGE WRITTEN (R177). -/
def execStorePageWritten (readBack : Page) (s : State) : Host.Outcome State Fault Refusal :=
  .next (unlessHeld (pageWritten readBack) s)

/-- READ STORE (R179). -/
def execReadStore (st : StationId) (tag : Byte) (what : StoreRead) (acked : Bool)
    (s : State) : Host.Outcome State Fault Refusal :=
  .next (unlessHeld (takeRequest st tag codeReadStore (whenNotLoading (handleReadStore st what acked))) s)

/-- WRITE CONFIG BLOCK (R177). -/
def execWriteConfigBlock (st : StationId) (tag : Byte) (block page : Nat) (bytes : Page)
    (s : State) : Host.Outcome State Fault Refusal :=
  .next (unlessHeld (takeRequest st tag codeWriteConfigBlock (whenNotLoading (handleWriteConfig st block page bytes))) s)

/-- WRITE ROUTE SLOT (R177, R52). -/
def execWriteRouteSlot (st : StationId) (tag : Byte) (slot : Nat) (bytes : Page)
    (s : State) : Host.Outcome State Fault Refusal :=
  .next (unlessHeld (takeRequest st tag codeWriteRouteSlot (whenNotLoading (handleWriteSlot st slot bytes))) s)

end Sys2Proof.Machine
end

