-- ==== Sys2Proof/Machine/Track.lean ====
section
/-! DEFINITION. The commands of sections, districts, signals and points (R1 to R41). One meaning for each command. -/

namespace Sys2Proof.Machine

/-- READ DISTRICT (R19). -/
def execReadDistrict (st : StationId) (tag : Byte) (n : Nat) (s : State) : Host.Outcome State Fault Refusal :=
  .next (unlessHeld (takeRequest st tag codeReadDistrict (whenReady (handleReadDistrict n))) s)

/-- READ POINT (R40). -/
def execReadPoint (st : StationId) (tag : Byte) (n : Nat) (s : State) : Host.Outcome State Fault Refusal :=
  .next (unlessHeld (takeRequest st tag codeReadPoint (whenReady (handleReadPoint n))) s)

/-- READ SECTION (R9). -/
def execReadSection (st : StationId) (tag : Byte) (n : Nat) (s : State) : Host.Outcome State Fault Refusal :=
  .next (unlessHeld (takeRequest st tag codeReadSection (whenReady (handleReadSection n))) s)

/-- READ SIGNAL (R24). -/
def execReadSignal (st : StationId) (tag : Byte) (n : Nat) (s : State) : Host.Outcome State Fault Refusal :=
  .next (unlessHeld (takeRequest st tag codeReadSignal (whenReady (handleReadSignal n))) s)

/-- RESTORE DISTRICT (R18). -/
def execRestoreDistrict (st : StationId) (tag : Byte) (n : Nat) (s : State) : Host.Outcome State Fault Refusal :=
  .next (unlessHeld (takeRequest st tag codeRestoreDistrict (whenReady (handleRestore st n))) s)

/-- THROW POINT (R39). -/
def execThrowPoint (st : StationId) (tag : Byte) (n : Nat) (pos : Option PointPos)
    (s : State) : Host.Outcome State Fault Refusal :=
  .next (unlessHeld (takeRequest st tag codeThrowPoint (whenReady (handleThrow st n pos))) s)

/-- CLEAR DELAY EXPIRY (R5). -/
def execClearDelayExpiry (sec : SectionId) (s : State) : Host.Outcome State Fault Refusal :=
  .next (unlessHeld (clearDelayExpires sec) s)

/-- FAULT FILTER EXPIRY (R12 to R14). -/
def execFaultFilterExpiry (d : DistrictId) (s : State) : Host.Outcome State Fault Refusal :=
  .next (unlessHeld (faultFilterExpires d) s)

/-- RETRY TIMER EXPIRY (R14). -/
def execRetryTimerExpiry (d : DistrictId) (s : State) : Host.Outcome State Fault Refusal :=
  .next (unlessHeld (retryExpires d) s)

/-- CONFIRM WINDOW EXPIRY (R14). -/
def execConfirmWindowExpiry (d : DistrictId) (s : State) : Host.Outcome State Fault Refusal :=
  .next (unlessHeld (confirmExpires d) s)

/-- RECHARGE EXPIRY (R32). -/
def execRechargeExpiry (s : State) : Host.Outcome State Fault Refusal :=
  .next (unlessHeld rechargeExpires s)

/-- THROW TIMER EXPIRY (R38). -/
def execThrowTimerExpiry (p : PointId) (s : State) : Host.Outcome State Fault Refusal :=
  .next (unlessHeld (throwExpires p) s)

end Sys2Proof.Machine
end

