-- ==== Sys2Proof/Machine/Trains.lean ====
section
/-! DEFINITION. The train commands (R100 to R106). One meaning for each command. -/

namespace Sys2Proof.Machine

/-- DELETE TRAIN (R104). -/
def execDeleteTrain (st : StationId) (tag : Byte) (handle : Nat) (s : State) : Host.Outcome State Fault Refusal :=
  .next (unlessHeld (takeRequest st tag codeDeleteTrain (whenReady (handleDeleteTrain st handle))) s)

/-- EDIT TRAIN (R105). -/
def execEditTrain (st : StationId) (tag : Byte) (handle : Nat) (edit : TrainEdit)
    (s : State) : Host.Outcome State Fault Refusal :=
  .next (unlessHeld (takeRequest st tag codeEditTrain (whenReady (handleEditTrain st handle edit))) s)

/-- ENTER TRAIN OFF LAYOUT (R102). -/
def execEnterTrainOffLayout (st : StationId) (tag : Byte) (headcode : Headcode) (kind : Option TrainKind) (loco : Nat) (dest : List Byte)
    (s : State) : Host.Outcome State Fault Refusal :=
  .next (unlessHeld (takeRequest st tag codeEnterTrain (whenReady (handleEnterTrain st headcode kind loco dest))) s)

/-- FIND TRAIN (R106). -/
def execFindTrain (st : StationId) (tag : Byte) (headcode : Headcode)
    (s : State) : Host.Outcome State Fault Refusal :=
  .next (unlessHeld (takeRequest st tag codeFindTrain (whenReady (handleFindTrain headcode))) s)

/-- INTERPOSE TRAIN (R101). -/
def execInterposeTrain (st : StationId) (tag : Byte) (sec : Nat) (headcode : Headcode) (kind : Option TrainKind) (loco : Nat) (dest : List Byte) (facing : Option DeckEnd)
    (s : State) : Host.Outcome State Fault Refusal :=
  .next (unlessHeld (takeRequest st tag codeInterposeTrain (whenReady (handleInterpose st sec headcode kind loco dest facing))) s)

/-- MOVE TRAIN (R103). -/
def execMoveTrain (st : StationId) (tag : Byte) (handle sec : Nat) (facing : Option DeckEnd)
    (s : State) : Host.Outcome State Fault Refusal :=
  .next (unlessHeld (takeRequest st tag codeMoveTrain (whenReady (handleMoveTrain st handle sec facing))) s)

/-- READ TRAIN (R106). -/
def execReadTrain (st : StationId) (tag : Byte) (handle : Nat) (s : State) : Host.Outcome State Fault Refusal :=
  .next (unlessHeld (takeRequest st tag codeReadTrain (whenReady (handleReadTrain handle))) s)

end Sys2Proof.Machine
end

