-- ==== Sys2Proof/Machine/Dispatch.lean ====
section
/-! DEFINITION. The effect of a command on everything but the queue: one arm for each command. -/

namespace Sys2Proof.Machine

def exec (i : Instr) (s : State) : Host.Outcome State Fault Refusal :=
  match i with
  | .chipReset straps => Sys2Proof.Machine.execChipReset straps s
  | .layoutReset st tag => Sys2Proof.Machine.execLayoutReset st tag s
  | .layoutResetCarriedOut => Sys2Proof.Machine.execLayoutResetCarriedOut s
  | .loadHeaderRead => Sys2Proof.Machine.execLoadHeaderRead s
  | .loadConfigBlockRead => Sys2Proof.Machine.execLoadConfigBlockRead s
  | .loadRouteSlotRead => Sys2Proof.Machine.execLoadRouteSlotRead s
  | .storeAckTimeout => Sys2Proof.Machine.execStoreAckTimeout s
  | .storePageWritten readBack => Sys2Proof.Machine.execStorePageWritten readBack s
  | .idle st => Sys2Proof.Machine.execIdle st s
  | .pollReplyTimeout => Sys2Proof.Machine.execPollReplyTimeout s
  | .replyBytePauseTimeout => Sys2Proof.Machine.execReplyBytePauseTimeout s
  | .panelBadReply => Sys2Proof.Machine.execPanelBadReply s
  | .stationRepollExpiry st => Sys2Proof.Machine.execStationRepollExpiry st s
  | .unknownRequest st tag code => Sys2Proof.Machine.execUnknownRequest st tag code s
  | .cancelRoute st tag res => Sys2Proof.Machine.execCancelRoute st tag res s
  | .emergencyRelease st tag res => Sys2Proof.Machine.execEmergencyRelease st tag res s
  | .readReservation st tag res => Sys2Proof.Machine.execReadReservation st tag res s
  | .readRoutesFromSignal st tag form => Sys2Proof.Machine.execReadRoutesFromSignal st tag form s
  | .retryRoute st tag res => Sys2Proof.Machine.execRetryRoute st tag res s
  | .setRoute st tag entrance exit => Sys2Proof.Machine.execSetRoute st tag entrance exit s
  | .setThroughRoute st tag signals => Sys2Proof.Machine.execSetThroughRoute st tag signals s
  | .readDistrict st tag n => Sys2Proof.Machine.execReadDistrict st tag n s
  | .readPoint st tag n => Sys2Proof.Machine.execReadPoint st tag n s
  | .readSection st tag n => Sys2Proof.Machine.execReadSection st tag n s
  | .readSignal st tag n => Sys2Proof.Machine.execReadSignal st tag n s
  | .restoreDistrict st tag n => Sys2Proof.Machine.execRestoreDistrict st tag n s
  | .throwPoint st tag n pos => Sys2Proof.Machine.execThrowPoint st tag n pos s
  | .deleteTrain st tag handle => Sys2Proof.Machine.execDeleteTrain st tag handle s
  | .editTrain st tag handle edit => Sys2Proof.Machine.execEditTrain st tag handle edit s
  | .enterTrainOffLayout st tag headcode kind loco dest => Sys2Proof.Machine.execEnterTrainOffLayout st tag headcode kind loco dest s
  | .findTrain st tag headcode => Sys2Proof.Machine.execFindTrain st tag headcode s
  | .interposeTrain st tag sec headcode kind loco dest facing => Sys2Proof.Machine.execInterposeTrain st tag sec headcode kind loco dest facing s
  | .moveTrain st tag handle sec facing => Sys2Proof.Machine.execMoveTrain st tag handle sec facing s
  | .readTrain st tag handle => Sys2Proof.Machine.execReadTrain st tag handle s
  | .readTurntable st tag => Sys2Proof.Machine.execReadTurntable st tag s
  | .turntableHome st tag => Sys2Proof.Machine.execTurntableHome st tag s
  | .turntableMove st tag road moveEnd => Sys2Proof.Machine.execTurntableMove st tag road moveEnd s
  | .turntableReset st tag => Sys2Proof.Machine.execTurntableReset st tag s
  | .withdrawMove st tag number => Sys2Proof.Machine.execWithdrawMove st tag number s
  | .announce st tag board train signal time dest => Sys2Proof.Machine.execAnnounce st tag board train signal time dest s
  | .editAnnouncement st tag n edit => Sys2Proof.Machine.execEditAnnouncement st tag n edit s
  | .readBoard st tag board line => Sys2Proof.Machine.execReadBoard st tag board line s
  | .readButtons st tag => Sys2Proof.Machine.execReadButtons st tag s
  | .setOpenDay st tag value => Sys2Proof.Machine.execSetOpenDay st tag value s
  | .withdrawAnnouncement st tag n => Sys2Proof.Machine.execWithdrawAnnouncement st tag n s
  | .readEvents st tag => Sys2Proof.Machine.execReadEvents st tag s
  | .readStatus st tag => Sys2Proof.Machine.execReadStatus st tag s
  | .readStore st tag what acked => Sys2Proof.Machine.execReadStore st tag what acked s
  | .writeConfigBlock st tag block page bytes => Sys2Proof.Machine.execWriteConfigBlock st tag block page bytes s
  | .writeRouteSlot st tag slot bytes => Sys2Proof.Machine.execWriteRouteSlot st tag slot bytes s
  | .image board inputs attention => Sys2Proof.Machine.execImage board inputs attention s
  | .report board inputs => Sys2Proof.Machine.execReport board inputs s
  | .grantTimeout => Sys2Proof.Machine.execGrantTimeout s
  | .lineTaken board line attention => Sys2Proof.Machine.execLineTaken board line attention s
  | .fieldAnswerTimeout attention => Sys2Proof.Machine.execFieldAnswerTimeout attention s
  | .fieldBadAnswer attention => Sys2Proof.Machine.execFieldBadAnswer attention s
  | .boardRepollExpiry board => Sys2Proof.Machine.execBoardRepollExpiry board s
  | .clearDelayExpiry sec => Sys2Proof.Machine.execClearDelayExpiry sec s
  | .faultFilterExpiry d => Sys2Proof.Machine.execFaultFilterExpiry d s
  | .retryTimerExpiry d => Sys2Proof.Machine.execRetryTimerExpiry d s
  | .confirmWindowExpiry d => Sys2Proof.Machine.execConfirmWindowExpiry d s
  | .rechargeExpiry => Sys2Proof.Machine.execRechargeExpiry s
  | .throwTimerExpiry p => Sys2Proof.Machine.execThrowTimerExpiry p s
  | .overlapTimerExpiry r => Sys2Proof.Machine.execOverlapTimerExpiry r s
  | .approachTimerExpiry r => Sys2Proof.Machine.execApproachTimerExpiry r s
  | .emergencyTimerExpiry r => Sys2Proof.Machine.execEmergencyTimerExpiry r s
  | .demonstrationHoldExpiry r => Sys2Proof.Machine.execDemonstrationHoldExpiry r s
  | .waitTimerExpiry => Sys2Proof.Machine.execWaitTimerExpiry s
  | .stageTimerExpiry => Sys2Proof.Machine.execStageTimerExpiry s
  | .lingerExpiry n => Sys2Proof.Machine.execLingerExpiry n s
  | .lampTimerExpiry b => Sys2Proof.Machine.execLampTimerExpiry b s
  | .cooldownExpiry b => Sys2Proof.Machine.execCooldownExpiry b s
  | .chipResetAsserted => Sys2Proof.Machine.execChipResetAsserted s
  | .badReport => Sys2Proof.Machine.execBadReport s

end Sys2Proof.Machine
end

