-- ==== Sys2Proof/Machine/Frames.lean ====
section
/-! DEFINITION. The bytes of the frames of both links (10, "Link frame" and "Request and response envelope"): building and
reading a frame, the frames that the part sends, what makes a panel's reply good (R159) and a board's answer good (R151),
and the row of the table that a panel's reply comes to. -/

namespace Sys2Proof.Machine

/-! ### The link frame -/

/-- The fields of a frame between its sync byte and its CRC; its length is its payload's. -/
structure LinkFrame where
  address : Byte
  kind : Byte
  tag : Byte
  payload : List Byte
  deriving DecidableEq, Repr

def syncByte : Byte := 0x5A
/-- The longest payload. -/
def maxPayload : Nat := 96

def kindPoll : Byte := 0x01
def kindIdle : Byte := 0x02
def kindRequest : Byte := 0x03
def kindResponse : Byte := 0x04
def kindRefresh : Byte := 0x11
def kindImage : Byte := 0x12
def kindGrant : Byte := 0x13
def kindReport : Byte := 0x14
def kindLine : Byte := 0x15
def kindLineTaken : Byte := 0x16

/-- The bytes that the CRC covers: bytes 1 to 4 + n. -/
def frameBody (f : LinkFrame) : List Byte := [f.address, f.kind, f.tag, BitVec.ofNat 8 f.payload.length] ++ f.payload

/-- The bytes of a frame. -/
def frameBytes (f : LinkFrame) : List Byte := [syncByte] ++ frameBody f ++ wordBytes (crc16 (frameBody f))

/-- Read the frame that bytes begin with: its sync byte, its length and its CRC are right. The frame is complete with its
CRC, so bytes that follow it are no part of it; they come while nothing is outstanding any more (R159). -/
def readFrame : List Byte → Option LinkFrame
  | sync :: address :: kind :: tag :: n :: rest =>
    let payload := rest.take n.toNat
    if sync = syncByte ∧ n.toNat ≤ maxPayload
        ∧ (rest.drop n.toNat).take 2 = wordBytes (crc16 ([address, kind, tag, n] ++ payload)) then
      some ⟨address, kind, tag, payload⟩
    else none
  | _ => none

/-- Bit 7 of the address byte: 1 in frames from the part. -/
def directionBit (fromPart : Bool) : Byte := if fromPart then 0x80 else 0x00

/-- The address byte of a panel link frame. -/
def panelAddress (st : StationId) (fromPart : Bool) : Byte := BitVec.ofNat 8 st.val ||| directionBit fromPart

/-- The address byte of a field link frame of a board. -/
def boardAddress (a : BoardIdx) (fromPart : Bool) : Byte := BitVec.ofNat 8 (a.val + 1) ||| directionBit fromPart

/-! ### The panel link -/

/-- The rate of the panel link in bit/s, by the straps (R159). -/
def bitRate (straps : BitVec 2) : Nat :=
  if straps = 0 then 19200 else if straps = 1 then 38400 else if straps = 2 then 57600 else 115200

/-- The byte of a result code. -/
def ResultCode.toByte : ResultCode → Byte
  | .done => 0x00
  | .accepted => 0x01
  | .notReady => 0x02
  | .badRequest => 0x03
  | .notPermitted => 0x04
  | .outOfTerritory => 0x05
  | .noSuchItem => 0x06
  | .noSuchRoute => 0x07
  | .conflict => 0x08
  | .occupied => 0x09
  | .locked => 0x0A
  | .pointBusy => 0x0B
  | .itemFailed => 0x0C
  | .tableFull => 0x0D
  | .queueFull => 0x0E
  | .inUse => 0x0F
  | .wrongState => 0x10
  | .busy => 0x11

/-- The POLL of a station: tag 0 and no payload. -/
def pollFrame (st : StationId) : LinkFrame := ⟨panelAddress st true, kindPoll, 0, []⟩

/-- The RESPONSE (R162). The bytes of a detail are an argument: the manual gives a detail as named fields (log 11). -/
def responseFrame (r : Response) (detail : List Byte) : LinkFrame :=
  ⟨panelAddress r.st true, kindResponse, r.tag, [r.code, r.result.toByte, if r.pending then 1 else 0] ++ detail⟩

/-- What the reply to a POLL is (R159, R161). -/
inductive PanelReply where | bad | idle | request (tag : Byte) (payload : List Byte)
  deriving DecidableEq, Repr

/-- An address byte has the direction bit clear and names a station: bits 3 to 0. Bits 6 to 4 are not tested (R159). -/
def addressesFrom (address : Byte) (st : StationId) : Bool := address.msb == false && address.toNat % 16 == st.val

/-- The reply of the station polled, by the conditions of R159. -/
def panelReply (polled : StationId) (bs : List Byte) : PanelReply :=
  match readFrame bs with
  | none => .bad
  | some f =>
    if addressesFrom f.address polled then
      if f.kind = kindIdle then .idle
      else if f.kind = kindRequest then .request f.tag f.payload
      else .bad
    else .bad

/-- The request codes of the catalogue (R170 to R172). -/
def catalogue : List Byte :=
  [codeCancelRoute, codeEmergencyRelease, codeReadReservation, codeReadRoutes, codeRetryRoute, codeSetRoute,
    codeSetThroughRoute, codeReadDistrict, codeReadPoint, codeReadSection, codeReadSignal, codeRestoreDistrict,
    codeThrowPoint, codeDeleteTrain, codeEditTrain, codeEnterTrain, codeFindTrain, codeInterposeTrain, codeMoveTrain,
    codeReadTrain, codeReadTurntable, codeTurntableHome, codeTurntableMove, codeTurntableReset, codeWithdrawMove,
    codeAnnounce, codeEditAnnouncement, codeReadBoard, codeReadButtons, codeSetOpenDay, codeWithdrawAnnouncement,
    codeLayoutReset, codeReadEvents, codeReadStatus, codeReadStore, codeWriteConfigBlock, codeWriteRouteSlot]

/-- The row of a request that has no parameters, by its code. -/
def bareRequest (st : StationId) (tag code : Byte) : Option Instr :=
  if code = codeReadTurntable then some (.readTurntable st tag)
  else if code = codeTurntableHome then some (.turntableHome st tag)
  else if code = codeTurntableReset then some (.turntableReset st tag)
  else if code = codeReadButtons then some (.readButtons st tag)
  else if code = codeLayoutReset then some (.layoutReset st tag)
  else if code = codeReadEvents then some (.readEvents st tag)
  else if code = codeReadStatus then some (.readStatus st tag)
  else none

/-- The row of the table that a request comes to, as far as the manual's bytes say: a code outside the catalogue is an
unknown request, and so are a code with parameters that its request does not have and an envelope without a code (R162).
The bytes of the parameters of the other requests are not given (log 11), nor is the code that the response to an envelope
without a code echoes (log 50). -/
def requestRow (st : StationId) (tag : Byte) : List Byte → Option Instr
  | [] => some (.unknownRequest st tag (Config.absentCode tag))
  | code :: params =>
    if code ∈ catalogue then
      match bareRequest st tag code with
      | none => none
      | some i => some (if params = [] then i else .unknownRequest st tag code)
    else some (.unknownRequest st tag code)

/-- The row of the table that the reply of the station polled comes to (R159, R161, R162). -/
def replyRow (polled : StationId) (bs : List Byte) : Option Instr :=
  match panelReply polled bs with
  | .bad => some .panelBadReply
  | .idle => some (.idle polled)
  | .request tag payload => requestRow polled tag payload

/-! ### The field link (R151) -/

/-- The GRANT goes to address 0, which no board has. -/
def grantFrame (tag : Byte) : LinkFrame := ⟨directionBit true, kindGrant, tag, []⟩

/-- What the REFRESH of a board carries: the channels of its own type (R150). -/
inductive Outputs where
  | nothing
  | drives (v : Vector PointDrive 8)
  | heads (v : Vector Aspect 8)
  | enables (v : Vector Bool 8)
  | deck (drive : TtDrive) (bolt : BoltOutput)
  | lamps (v : Vector ButtonState 8)
  deriving DecidableEq, Repr

/-- The channels of an output image that the REFRESH of a board of a type carries: a DETECTOR board has no outputs, and the
lines of a DISPLAY board are carried by LINE exchanges (R150, R151). -/
def OutputImage.carried (i : OutputImage) : BoardType → Outputs
  | .detector | .display => .nothing
  | .point => .drives i.drives
  | .signal => .heads i.heads
  | .district => .enables i.enables
  | .turntable => .deck i.ttDrive i.ttBolt
  | .button => .lamps i.lamps

/-- How channels are packed into bytes. The manual gives them as named channels, so nothing evaluates this (log 11). -/
opaque packChannels (x : Outputs) : List Byte

/-- The payload of a REFRESH. -/
def Outputs.bytes : Outputs → List Byte
  | .nothing => []
  | x => packChannels x

/-- The REFRESH of a board of a type, with its output image (R151). -/
def refreshFrame (a : BoardIdx) (tag : Byte) (t : BoardType) (i : OutputImage) : LinkFrame :=
  ⟨boardAddress a true, kindRefresh, tag, (i.carried t).bytes⟩

/-- The LINE of a DISPLAY board: the line number, then the 32 characters (log 11). -/
def lineFrame (a : BoardIdx) (tag : Byte) (n : LineNo) (text : List Byte) : LinkFrame :=
  ⟨boardAddress a true, kindLine, tag, BitVec.ofNat 8 n.val :: text⟩

/-- The frame that the part sends for an exchange or a grant, with a tag of its own (R151, R153). -/
def frameSent (s : State) (tag : Byte) : Exchange → Option LinkFrame
  | .quiet => none
  | .refresh a => (tget s.boards a).type.map fun t => refreshFrame a tag t (tget s.boards a).image
  | .line a n text => some (lineFrame a tag n text)
  | .grant => some (grantFrame tag)

/-- Whether bytes are the good answer to the outstanding exchange, sent with a tag (R151). The type and the inputs that an
IMAGE carries are for the controller to judge. -/
def answerGood (x : Exchange) (tag : Byte) (bs : List Byte) : Bool :=
  match x, readFrame bs with
  | .refresh a, some f => f.address == boardAddress a false && f.tag == tag && f.kind == kindImage
  | .line a n _, some f =>
    f.address == boardAddress a false && f.tag == tag && f.kind == kindLineTaken && f.payload == [BitVec.ofNat 8 n.val]
  | _, _ => false

/-- The board that a frame to the part comes from. -/
def senderOf (f : LinkFrame) : Option BoardIdx := (List.finRange 32).find? fun a => f.address == boardAddress a false

/-- The board and the payload of a good REPORT (R153). A GRANT is no exchange, so R151's tag is not asked for (log 11). -/
def reportGood (bs : List Byte) : Option (BoardIdx × List Byte) :=
  (readFrame bs).bind fun f => if f.kind = kindReport then (senderOf f).map fun a => (a, f.payload) else none

/-- The bytes come from an address that is not configured, and are discarded (R150). -/
def fromUnknown (s : State) (bs : List Byte) : Bool :=
  (((readFrame bs).bind senderOf).map fun a => !boardKnown s a).getD false

/-- The row of the table that bytes from the field come to while an exchange or a grant is outstanding (R150, R151, R153,
R154). The bytes of a type and an input image are not given (log 11). -/
def fieldRow (s : State) (tag : Byte) (attention : Bool) (bs : List Byte) : Option Instr :=
  match s.fieldLink.outstanding with
  | .quiet => none
  | .grant => match reportGood bs with
    | some (a, p) => some (.report a (Config.inputsOf p))
    | none => if fromUnknown s bs then none else some .badReport
  | x =>
    if answerGood x tag bs then
      match x with
      | .refresh a => some (.image a (Config.inputsOf (((readFrame bs).map (·.payload)).getD [])) attention)
      | .line a n _ => some (.lineTaken a n attention)
      | .quiet | .grant => none
    else if fromUnknown s bs then none
    else some (.fieldBadAnswer attention)

end Sys2Proof.Machine
end

