-- ==== Sys2Proof/Safety.lean ====
section
/-! DEFINITION. What statements about the model are made of: when a request is answered, the part of the state that only a
load, a store write or a reset changes, and the invariants of the tables. -/

namespace Sys2Proof.Machine

/-! ### Answering -/

/-- RESET is not held, and the station is the one being polled: its reply is taken (R161, R173). -/
def Polled (st : StationId) (s : State) : Prop := s.resetHeld = false ∧ s.panelLink.polled = some st

/-- A station is polled and the load state is READY: its requests are taken (R161, R165). -/
def Asks (st : StationId) (s : State) : Prop := Polled st s ∧ s.loadState = .ready

/-- The state after a request of a station whose handling gave a result, a detail and a state (R161, R162). -/
def answered (st : StationId) (tag code : Byte) (c : ResultCode) (d : Detail) (s : State) : State :=
  respond st tag code ⟨c, d⟩ s

/-! ### Requests -/

/-- The station, the tag and the request code of a command that is a request of the catalogue (R170 to R172). -/
def requestOf : Instr → Option (StationId × Byte × Byte)
  | .cancelRoute st tag _ => some (st, tag, 0x10)
  | .emergencyRelease st tag _ => some (st, tag, 0x11)
  | .readReservation st tag _ => some (st, tag, 0x12)
  | .readRoutesFromSignal st tag _ => some (st, tag, 0x13)
  | .retryRoute st tag _ => some (st, tag, 0x14)
  | .setRoute st tag _ _ => some (st, tag, 0x15)
  | .setThroughRoute st tag _ => some (st, tag, 0x16)
  | .readDistrict st tag _ => some (st, tag, 0x20)
  | .readPoint st tag _ => some (st, tag, 0x21)
  | .readSection st tag _ => some (st, tag, 0x22)
  | .readSignal st tag _ => some (st, tag, 0x23)
  | .restoreDistrict st tag _ => some (st, tag, 0x24)
  | .throwPoint st tag _ _ => some (st, tag, 0x25)
  | .deleteTrain st tag _ => some (st, tag, 0x30)
  | .editTrain st tag _ _ => some (st, tag, 0x31)
  | .enterTrainOffLayout st tag _ _ _ _ => some (st, tag, 0x32)
  | .findTrain st tag _ => some (st, tag, 0x33)
  | .interposeTrain st tag _ _ _ _ _ _ => some (st, tag, 0x34)
  | .moveTrain st tag _ _ _ => some (st, tag, 0x35)
  | .readTrain st tag _ => some (st, tag, 0x36)
  | .readTurntable st tag => some (st, tag, 0x40)
  | .turntableHome st tag => some (st, tag, 0x41)
  | .turntableMove st tag _ _ => some (st, tag, 0x42)
  | .turntableReset st tag => some (st, tag, 0x43)
  | .withdrawMove st tag _ => some (st, tag, 0x44)
  | .announce st tag _ _ _ _ _ => some (st, tag, 0x50)
  | .editAnnouncement st tag _ _ => some (st, tag, 0x51)
  | .readBoard st tag _ _ => some (st, tag, 0x52)
  | .readButtons st tag => some (st, tag, 0x53)
  | .setOpenDay st tag _ => some (st, tag, 0x54)
  | .withdrawAnnouncement st tag _ => some (st, tag, 0x55)
  | .layoutReset st tag => some (st, tag, 0x60)
  | .readEvents st tag => some (st, tag, 0x61)
  | .readStatus st tag => some (st, tag, 0x62)
  | .readStore st tag _ _ => some (st, tag, 0x63)
  | .writeConfigBlock st tag _ _ _ => some (st, tag, 0x64)
  | .writeRouteSlot st tag _ _ => some (st, tag, 0x65)
  | _ => none

/-- The load states in which a request is taken normally (R165). -/
def takenIn (c : Instr) : LoadState → Bool
  | .ready => true
  | .loading => match c with
    | .readStatus _ _ => true
    | _ => false
  | .noImage => match c with
    | .readStatus _ _ => true
    | .readStore _ _ _ _ => true
    | .writeRouteSlot _ _ _ _ => true
    | .writeConfigBlock _ _ _ _ _ => true
    | .layoutReset _ _ => true
    | _ => false

/-- Every table and record but those of the panel link and of the stations is the same. -/
def SameTables (s t : State) : Prop := t = { s with panelLink := t.panelLink, stations := t.stations }

/-- Station `x` is the one that the round-robin reaches after station `a` (R161). -/
def NextInTurn (s : State) (a x : StationId) : Prop :=
  (isEnrolled s x = true ∧ (tget s.stations x).present = true)
    ∧ ((a < x ∧ ∀ y, isEnrolled s y = true → (tget s.stations y).present = true → a < y → x ≤ y)
      ∨ ∀ y, isEnrolled s y = true → (tget s.stations y).present = true → y ≤ a ∧ x ≤ y)

/-- Station `x` is the lowest-numbered enrolled station whose re-poll is due (R161). -/
def FirstDue (s : State) (x : StationId) : Prop :=
  isEnrolled s x = true ∧ (tget s.stations x).repollDue = true
    ∧ ∀ y, isEnrolled s y = true → (tget s.stations y).repollDue = true → x ≤ y

/-- `t` is `s` after the line has become free (R161): a due re-poll goes first, otherwise the round-robin continues, and no
POLL is sent while a LAYOUT RESET waits to be carried out (log 12). Nothing else changes. -/
def PollsNext (s t : State) : Prop :=
  SameTables s t ∧ t.panelLink.response = s.panelLink.response ∧ t.panelLink.lastRefusal = s.panelLink.lastRefusal
    ∧ (∀ x, tget t.stations x = { tget s.stations x with repollDue := (tget t.stations x).repollDue })
    ∧ (s.layoutResetDue = true → t.panelLink.polled = none)
    ∧ (s.layoutResetDue = false → ∀ x, FirstDue s x →
        t.panelLink.polled = some x ∧ t.panelLink.lastPolled = s.panelLink.lastPolled
          ∧ (tget t.stations x).repollDue = false ∧ ∀ y, y ≠ x → tget t.stations y = tget s.stations y)
    ∧ (s.layoutResetDue = false → (∀ x, ¬ FirstDue s x) → ∀ a x, s.panelLink.lastPolled = some a → NextInTurn s a x →
        t.panelLink.polled = some x ∧ t.panelLink.lastPolled = some x ∧ t.stations = s.stations)

/-! ### What only a load, a store write or a reset changes -/

/-- The configuration, the route table, the store with its controller, the load, and the queue. -/
structure Fixed where
  sectionCfgs : Vector (Option SectionCfg) 256
  districtCfgs : Vector (Option DistrictCfg) 8
  signalCfgs : Vector (Option SignalCfg) 128
  pointCfgs : Vector (Option PointCfg) 128
  turntableCfg : Option TurntableCfg
  displayAddrs : Vector (Option BoardIdx) 4
  buttonCfgs : Vector (Option ButtonCfg) 8
  boardTypes : Vector (Option BoardType) 32
  stationCfgs : Vector (Bool × Territory) 15
  stationsRead : Bool
  slots : Vector SlotRec 512
  loadState : LoadState
  linkRate : BitVec 2
  storeDamaged : Bool
  loader : Loader
  imageVersion : Option (BitVec 16)
  timing : Timing
  write : Option StoreWrite
  lastStoreResult : Option StoreResult
  layoutResetDue : Bool
  resetHeld : Bool
  store : List Host.Cell
  torn : List Nat
  pending : List Instr

/-- That part of a state. -/
def fixed (s : State) : Fixed :=
  { sectionCfgs := tmap (·.cfg) s.sections, districtCfgs := tmap (·.cfg) s.districts
    signalCfgs := tmap (·.cfg) s.signals, pointCfgs := tmap (·.cfg) s.points, turntableCfg := s.tt.cfg
    displayAddrs := tmap (·.addr) s.depBoards, buttonCfgs := tmap (·.cfg) s.buttons
    boardTypes := tmap (·.type) s.boards, stationCfgs := tmap (fun e => (e.enrolled, e.territory)) s.stations
    stationsRead := s.stationsRead, slots := s.slots, loadState := s.loadState, linkRate := s.linkRate
    storeDamaged := s.storeDamaged, loader := s.loader, imageVersion := s.imageVersion, timing := s.timing
    write := s.write, lastStoreResult := s.lastStoreResult, layoutResetDue := s.layoutResetDue
    resetHeld := s.resetHeld, store := s.store, torn := s.torn, pending := s.pending }

/-- A request is refused OUT OF TERRITORY with an item: the refusal is recorded, the supervisor's TERRITORY event is set, and
nothing else changes (R166). -/
def RefusedOutOfTerritory (c : Instr) (s : State) (st : StationId) (tag code : Byte) (x : ItemRef) : Prop :=
  ∃ u, exec c s = .next (answered st tag code .outOfTerritory (.item x) u) ∧ SameTables s u
    ∧ u.panelLink = { s.panelLink with lastRefusal := some ⟨st, code, x⟩ }
    ∧ (∀ y f, hasFlag u y f = (hasFlag (goodReply st s) y f || decide (y = supervisor ∧ f = .territory)))
    ∧ ∀ y, { tget u.stations y with flags := (tget s.stations y).flags }
        = { tget (goodReply st s).stations y with flags := (tget s.stations y).flags }

/-- Every enrolled station has a flag. -/
def AllTold (s t : State) (f : EventFlag) : Prop := ∀ x, isEnrolled s x = true → hasFlag t x f = true

/-- The supervisor and every enrolled station whose point territory holds a point have the POINT event (R28). -/
def PointTold (s t : State) (p : PointId) : Prop :=
  hasFlag t supervisor .point = true
    ∧ ∀ x, isEnrolled s x = true → (tget s.stations x).territory.point p = true → hasFlag t x .point = true

/-- The point drive has considered a start: no order that may start is left (R32). -/
def StartConsidered (t : State) : Prop := t.throwQueue = [] ∨ 2 ≤ throwsInMotion t ∨ t.rechargeTimer ≠ none

/-! ### Resets, the load and the store -/

/-- Every block has its chip reset values (R10, R11, R20, R41, R42, R56, R131, R132, R144, R158, R160, R166, R173). -/
structure HasChipResetValues (s : State) : Prop where
  sections : ∀ n, tget s.sections n = ⟨.unknown, none, none, none⟩
  districts : ∀ d, tget s.districts d = ⟨.off, 0, none, none, none, none, none⟩
  signals : ∀ x, tget s.signals x = ⟨.danger, false, none, none⟩
  points : ∀ p, tget s.points p = ⟨.unknown, none, none, false, none, .free, none, none⟩
  throws : s.throwQueue = [] ∧ s.rechargeTimer = none
  slots : ∀ n, tget s.slots n = ⟨.absent .notLoaded, false⟩
  reservations : ∀ r, tget s.reservations r = none
  trains : ∀ t, tget s.trains t = none
  turntable : s.tt = ⟨.unknown, none, none, none, .free, none, none, 0, none, false, 0, none, []⟩
  announcements : ∀ n, tget s.announcements n = none
  depBoards : ∀ b, (tget s.depBoards b).addr = none ∧ (tget s.depBoards b).list = []
    ∧ ∀ l, tget (tget s.depBoards b).lines l = ⟨List.replicate 32 space, true⟩
  buttons : s.openDay = false ∧ ∀ b, tget s.buttons b = ⟨.off, none, none, none, none, none⟩
  boards : ∀ a, tget s.boards a = ⟨none, .unknown, 0, OutputImage.safe, false, none, false⟩
  stations : ∀ x, (tget s.stations x).present = true ∧ (tget s.stations x).missCount = 0
    ∧ (tget s.stations x).repollTimer = none ∧ isEnrolled s x = true ∧ ∀ f, hasFlag s x f = false
  refusal : s.panelLink.lastRefusal = none
  store : s.write = none ∧ s.lastStoreResult = none ∧ s.storeDamaged = false
  load : s.loadState = .loading ∧ s.loader = .header ∧ s.resetHeld = false

/-- `t` is `s` after the load has ended in NO_IMAGE (R175, R158, R131). -/
def EndsInNoImage (s t : State) : Prop :=
  t.loadState = .noImage ∧ t.loader = .idle ∧ hasFlag t supervisor .store = true
    ∧ (∀ a, (tget t.boards a).type = none ∧ (tget t.boards a).state = .unknown ∧ (tget t.boards a).missCount = 0
        ∧ (tget t.boards a).repollTimer = none)
    ∧ (∀ b, tget t.depBoards b = { tget s.depBoards b with addr := none })
    ∧ t.tt = { s.tt with
        cfg := none, state := .unknown, lastPosition := s.tt.position.or s.tt.lastPosition, position := none }
    ∧ (∀ x f, ¬ (x = supervisor ∧ f = .store) → hasFlag t x f = hasFlag s x f)
    ∧ t = { s with
        loadState := .noImage, loader := .idle, boards := t.boards, depBoards := t.depBoards, tt := t.tt
        stations := t.stations }

/-- The 64 bytes of a route slot's page as the store holds them. -/
def slotPage (s : State) (n : SlotId) : List Byte := memReads s.store (0x8000 + 64 * n.val) 64

/-- How the route table decides a slot as it is loaded (R45, with R178 for a page written in part). -/
def Decides (s : State) (n : SlotId) (x : SlotStatus) : Prop :=
  let bs := slotPage s n
  let whole := areaWhole s (0x8000 + 64 * n.val) 64
  (whole = false → x = .absent .damaged)
    ∧ (whole = true → natAt bs 0 = 0xFF → x = .absent .unused)
    ∧ (whole = true → natAt bs 0 ≠ 0xFF → crc16 (bs.take 62) ≠ wordAt bs 62 → x = .absent .damaged)
    ∧ (whole = true → natAt bs 0 ≠ 0xFF → crc16 (bs.take 62) = wordAt bs 62 →
        (∀ k, formCheck bs = .error k → x = .absent (.invalid k))
          ∧ ∀ d, formCheck bs = .ok d →
            (∀ k, layoutCheck s d = some k → x = .absent (.invalid k))
              ∧ (layoutCheck s d = none →
                (∀ m, (tget s.slots m).hasPair d.entrance d.exit = true →
                    (∀ j, (tget s.slots j).hasPair d.entrance d.exit = true → m ≤ j) → x = .absent (.duplicate m))
                  ∧ ((∀ m, (tget s.slots m).hasPair d.entrance d.exit = false) → x = .defined d)))

/-- A header page that closes with its CRC and holds a version, a write count and the nine entries given by a function
(10, "Store header and store map"). -/
def IsHeader (h : List Byte) (version count : BitVec 16) (entry : Fin 9 → BitVec 16 × BitVec 16) : Prop :=
  h.length = 64 ∧ h.take 4 = [0x4A, 0x58, 0x47, 0x53] ∧ wordAt h 4 = version ∧ wordAt h 6 = count
    ∧ (∀ k : Fin 9, wordAt h (8 + 4 * k.val) = (entry k).1 ∧ wordAt h (10 + 4 * k.val) = (entry k).2)
    ∧ wordAt h 62 = crc16 (h.take 62)

/-- A configured board of a type. -/
def HasType (s : State) (t : BoardType) (a : BoardIdx) : Prop := (tget s.boards a).type = some t

/-- Every configured item names a board of its own type and configured items (R1, R20, R25, R108, R132, R144, R175). -/
structure ItemsFit (s : State) : Prop where
  districts : ∀ d c, (tget s.districts d).cfg = some c → HasType s .district c.board
  sections : ∀ n c, (tget s.sections n).cfg = some c →
    HasType s .detector c.board ∧ (tget s.districts c.district).cfg.isSome = true
  points : ∀ p c, (tget s.points p).cfg = some c → HasType s .point c.board ∧ (tget s.sections c.sec).cfg.isSome = true
  signals : ∀ x c, (tget s.signals x).cfg = some c → HasType s .signal c.board
    ∧ (tget s.sections c.berth).cfg.isSome = true ∧ (tget s.sections c.firstBeyond).cfg.isSome = true
    ∧ (tget s.signals x).controlled = boardPresent s c.board
  turntable : ∀ c, s.tt.cfg = some c → HasType s .turntable c.board ∧ (tget s.sections c.deck).cfg.isSome = true
    ∧ (tget s.sections c.pit1).cfg.isSome = true ∧ (tget s.sections c.pit2).cfg.isSome = true
    ∧ ∀ j n, tget c.roads j = some n → (tget s.sections n).cfg.isSome = true
  buttons : ∀ b c, (tget s.buttons b).cfg = some c → HasType s .button c.board
  depBoards : ∀ b a, (tget s.depBoards b).addr = some a → HasType s .display a

/-- No two configured items of a kind share an input or a channel, and no two departure boards a board (R175). -/
structure ChannelsDistinct (s : State) : Prop where
  districts : ∀ d e c, (tget s.districts d).cfg = some c → (tget s.districts e).cfg = some c → d = e
  sections : ∀ n m c g, (tget s.sections n).cfg = some c → (tget s.sections m).cfg = some g →
    c.board = g.board → c.input = g.input → n = m
  points : ∀ p q c g, (tget s.points p).cfg = some c → (tget s.points q).cfg = some g →
    c.board = g.board → c.channel = g.channel → p = q
  signals : ∀ x y c g, (tget s.signals x).cfg = some c → (tget s.signals y).cfg = some g →
    c.board = g.board → c.head = g.head → x = y
  buttons : ∀ b d c g, (tget s.buttons b).cfg = some c → (tget s.buttons d).cfg = some g →
    c.board = g.board → c.channel = g.channel → b = d
  depBoards : ∀ b d a, (tget s.depBoards b).addr = some a → (tget s.depBoards d).addr = some a → b = d

/-- The check of config block `k` against the header (R175, with R178 for a page written in part), and the failed blocks after
it. -/
def BlockChecked (s : State) (k : Fin 9) (failed bad : List (Fin 9)) : Prop :=
  let bs := memReads s.store (blockArea k).1 (blockArea k).2
  let h := memReads s.store 0 64
  let good := areaWhole s (blockArea k).1 (blockArea k).2 = true ∧ crc16 bs = wordAt h (10 + 4 * k.val)
    ∧ BitVec.ofNat 16 (itemCount k bs) = wordAt h (8 + 4 * k.val)
  (good ∧ bad = failed) ∨ (¬ good ∧ bad = failed ++ [k])

/-- The bytes of a block's area, if the block has not failed. -/
def areaGiven (s : State) (bad : List (Fin 9)) (k : Fin 9) : Option (List Byte) :=
  if k ∈ bad then none else some (memReads s.store (blockArea k).1 (blockArea k).2)

/-- An entry names a board of a type, configured at its address. -/
def NamesBoard (t : State) (x : BoardType) (addr : Nat) (a : BoardIdx) : Prop := addr = a.val + 1 ∧ HasType t x a

/-- An entry names a configured section. -/
def NamesSection (t : State) (n : Nat) (k : SectionId) : Prop := n = k.val ∧ (tget t.sections k).cfg.isSome = true

/-- A stored range that is in use holds an item: its size is a power of two up to 128, its base a multiple of the size, and it
ends at or before item 127 (R164). -/
def RangeGives (e : Config.RangeEntry) (n : Nat) : Prop :=
  (∃ k, k ≤ 7 ∧ e.size = 2 ^ k) ∧ e.base % e.size = 0 ∧ e.base + e.size ≤ 128 ∧ e.base ≤ n ∧ n < e.base + e.size

/-! ### Invariants -/

/-- A CLEAR section never has a clear delay pending (R1). -/
def SectionsSound (s : State) : Prop := ∀ n, (tget s.sections n).occ = .clear → (tget s.sections n).clearTimer = none

/-- The retry counts that a district may have in a state (R11, R13, R14). -/
def DistrictState.allows (n : Nat) : DistrictState → Prop
  | .tripped => n < 3
  | .lockedOut => n = 3
  | .off | .normal | .cut => n = 0

/-- The timers of a district run, its cause of cut is present and its retry count stands only as R11 to R14 give. -/
def DistrictRec.Sound (e : DistrictRec) : Prop :=
  (e.state ≠ .tripped → e.retryTimer = none ∧ e.confirmWindow = none) ∧ (e.cause.isSome ↔ e.state = .cut)
    ∧ (boosterOn e = false → e.faultFilter = none) ∧ e.state.allows e.retryCount

/-- Every district is sound. -/
def DistrictsSound (s : State) : Prop := ∀ d, (tget s.districts d).Sound

/-- Target, throw timer, throw owner, release at end and the DISOWNED lock belong to a MOVING point alone (R25, R29). -/
def PointRec.Sound (e : PointRec) : Prop :=
  if e.state = .moving then e.target.isSome = true ∧ e.throwTimer.isSome = true
  else e.target = none ∧ e.throwTimer = none ∧ e.throwOwner = none ∧ e.releaseAtEnd = false ∧ e.lock ≠ .disowned

/-- Every point is sound. -/
def PointsSound (s : State) : Prop := ∀ p, (tget s.points p).Sound

/-- The throw queue's law (2.3) and the limit of two throws in motion (R32). -/
def ThrowsSound (s : State) : Prop :=
  s.throwQueue.length ≤ throwQueueSize ∧ (s.throwQueue.map (·.point)).Nodup
    ∧ (∀ o ∈ s.throwQueue, (tget s.points o.point).state ≠ .moving) ∧ throwsInMotion s ≤ 2

/-- No two trains have their heads in one section (R91). -/
def HeadsSound (s : State) : Prop :=
  ∀ t u v w n, tget s.trains t = some v → tget s.trains u = some w → v.head = some n → w.head = some n → t = u

/-- The states in which the turntable has a position (R108). -/
def TtState.positioned : TtState → Bool
  | .idle | .unbolting | .turning | .bolting => true
  | .unknown | .homing | .failed => false

/-- The turntable has a position exactly in IDLE, UNBOLTING, TURNING and BOLTING (R108). -/
def PositionSound (s : State) : Prop := s.tt.position.isSome = s.tt.state.positioned

/-- A page that a write concerns lies in the store, and is a page of its area. -/
def StorePage.inStore : StorePage → Bool
  | .config k p => decide (p < blockPages k)
  | .slot _ | .header => true

/-- A write in progress has a page of the store and 64 bytes for it (R177). -/
def StoreWrite.Sound (w : StoreWrite) : Prop := w.page.inStore = true ∧ w.bytes.length = pageSize

/-- The store's bytes are in canonical form and lie within its addresses, and a write in progress is sound. -/
def StoreSound (s : State) : Prop :=
  Memory.wf s.store = true ∧ (∀ c ∈ s.store, c.1 < storeSize) ∧ ∀ w, s.write = some w → w.Sound

/-- The loader works in LOADING alone, no write is in progress then, and the image version and the route table are empty
until the load has come to them and throughout NO_IMAGE (R42, R54, R165, R169, R175, R177). -/
structure LoadSound (s : State) : Prop where
  loading : s.loader ≠ .idle → s.loadState = .loading
  noWrite : s.loadState = .loading → s.write = none
  version : s.loader = .header ∨ s.loadState = .noImage → s.imageVersion = none
  empty : s.loader = .header ∨ (∃ k f, s.loader = .block k f) ∨ s.loadState = .noImage →
    ∀ n, tget s.slots n = ⟨.absent .notLoaded, false⟩

/-- Reservations and signals name each other: a live reservation's definition is DEFINED, and its entrance signal names it;
a signal's entrance-of names a live reservation from it (R20, R49, R56). A signal is at an aspect other than DANGER only
while it is controlled and its reservation is OPEN (R21). No reservation is live unless the load state is READY (R90), or
uses a slot that is being written (R52, R53). -/
structure RoutesSound (s : State) : Prop where
  defined : ∀ r v, getRes s r = some v → ∃ d, slotDef s v.slot = some d ∧ (tget s.signals d.entrance).entranceOf = some r
  entrance : ∀ x r, (tget s.signals x).entranceOf = some r →
    ∃ v d, getRes s r = some v ∧ slotDef s v.slot = some d ∧ d.entrance = x
  aspects : ∀ x, (tget s.signals x).aspect ≠ .danger → (tget s.signals x).controlled = true
    ∧ ∃ r v, (tget s.signals x).entranceOf = some r ∧ getRes s r = some v ∧ v.state = .opened
  loading : s.loadState ≠ .ready → ∀ r, getRes s r = none
  marked : ∀ r v, getRes s r = some v → (tget s.slots v.slot).writing = false
  written : ∀ w n, s.write = some w → w.what = .slot n → s.loadState = .ready → (tget s.slots n).writing = true

/-- Whatever is held for a reservation is held for a live one: section and point locks, the deck lock, throw orders, throws
in motion, and the turntable's moves (R8, R29, R31, R79, R110, R113). -/
structure HoldsSound (s : State) : Prop where
  sections : ∀ n l, (tget s.sections n).lock = some l → getRes s l.res ≠ none
  points : ∀ p r, (tget s.points p).lock = .res r → getRes s r ≠ none
  owners : ∀ p r, (tget s.points p).state = .moving → (tget s.points p).throwOwner = some r → getRes s r ≠ none
  orders : ∀ o ∈ s.throwQueue, ∀ r, o.owner = some r → getRes s r ≠ none
  deck : ∀ r, s.tt.deckLock.holder = some r → getRes s r ≠ none
  moves : ∀ m, m ∈ s.tt.queue ∨ s.tt.current = some m → ∀ r, m.kind = .interlocking (some r) → getRes s r ≠ none

/-- What a live reservation holds: the sections of its path from the release cursor on, and of its overlap until that is
released, are locked to it, each in its role, with the points that they require (R63, R76, R78, R83); and a lock that names a
reservation is one of these, or that of a point of its route. A point is MOVING only while its lock is none, DISOWNED or the
reservation that ordered the throw, and an order waits for a point that no reservation but its owner has locked (R29, R31). -/
structure LocksSound (s : State) : Prop where
  path : ∀ r v d k e, resDef s r = some (v, d) → v.releaseCursor ≤ k → d.path[k]? = some e →
    (tget s.sections e.sec).lock = some ⟨r, .path k⟩ ∧ ∀ q, e.point = some q → (tget s.points q.point).lock = .res r
  overlap : ∀ r v d k e, resDef s r = some (v, d) → v.overlapReleased = false → d.overlap[k]? = some e →
    (tget s.sections e.sec).lock = some ⟨r, .overlap k⟩ ∧ ∀ q, e.point = some q → (tget s.points q.point).lock = .res r
  roles : ∀ n l v d, (tget s.sections n).lock = some l → resDef s l.res = some (v, d) →
    match l.role with
    | .path k => v.releaseCursor ≤ k ∧ (d.path[k]?).map (·.sec) = some n
    | .overlap k => v.overlapReleased = false ∧ (d.overlap[k]?).map (·.sec) = some n
  points : ∀ p r v d, (tget s.points p).lock = .res r → resDef s r = some (v, d) → p ∈ elemPoints (d.path ++ d.overlap)
  moving : ∀ p, (tget s.points p).state = .moving → match (tget s.points p).lock with
    | .res r => (tget s.points p).throwOwner = some r
    | .disowned => (tget s.points p).releaseAtEnd = true
    | .free => True
  disowned : ∀ p, (tget s.points p).releaseAtEnd = true → (tget s.points p).throwOwner = none
  queued : ∀ o ∈ s.throwQueue, ∀ r, (tget s.points o.point).lock = .res r → o.owner = some r

/-- What each layout check, by its number, asks of a definition with path elements and no deck requirement in its overlap
(R47, checks 9 to 15). -/
def PassesLayout (s : State) (d : RouteDef) : Nat → Prop
  | 9 => ∃ g, (tget s.signals d.entrance).cfg = some g ∧ (g.kind = .main ↔ d.cls = .main)
  | 10 => ∀ x, d.exit = .signal x → (tget s.signals x).cfg ≠ none
  | 11 => ∀ n ∈ d.approach ++ (d.path ++ d.overlap).map (·.sec), (tget s.sections n).cfg ≠ none
  | 12 => ∀ e ∈ d.path ++ d.overlap, ∀ q, e.point = some q → ∃ g, (tget s.points q.point).cfg = some g ∧ g.sec = e.sec
  | 13 => (∀ e ∈ d.path, e.deck ≠ none ↔ ∃ g, s.tt.cfg = some g ∧ g.deck = e.sec)
      ∧ ∀ g, s.tt.cfg = some g → g.deck ∉ d.approach ++ d.overlap.map (·.sec)
  | 14 => ∃ e g, d.path.head? = some e ∧ (tget s.signals d.entrance).cfg = some g ∧ g.firstBeyond = e.sec
  | 15 => ∀ x, d.exit = .signal x → ∃ e g, d.path.getLast? = some e ∧ (tget s.signals x).cfg = some g ∧ g.berth = e.sec
      ∧ ∀ y, d.overlap.head? = some y → g.firstBeyond = y.sec
  | _ => True

/-- A definition fits the layout: it passes the form checks on sections and points and every layout check (R46, R47). -/
def RouteDef.Fits (s : State) (d : RouteDef) : Prop :=
  d.path ≠ [] ∧ d.path.length ≤ 12 ∧ (d.approach ++ d.path.map (·.sec) ++ d.overlap.map (·.sec)).Nodup
    ∧ (elemPoints d.path ++ elemPoints d.overlap).Nodup ∧ (∀ e ∈ d.overlap, e.deck = none) ∧ layoutCheck s d = none

/-- Every DEFINED slot holds a definition that fits the layout, and no two hold the same pair (R45 to R48). A write that was
admitted in READY keeps it so: its content is the unused marking, or fits and repeats no other slot's pair (R52). -/
structure SlotsSound (s : State) : Prop where
  fits : ∀ n d, slotDef s n = some d → d.Fits s
  pairs : ∀ n m d e, slotDef s n = some d → slotDef s m = some e → d.entrance = e.entrance → d.exit = e.exit → n = m
  written : ∀ w n, s.write = some w → w.what = .slot n → s.loadState = .ready →
    w.page = .slot n ∨ w.page = .header →
      let bs := if w.page = .slot n then w.bytes else slotPage s n
      natAt bs 0 = 0xFF ∨ ∃ d, formCheck bs = .ok d ∧ d.Fits s ∧ ∀ m, m ≠ n → (tget s.slots m).hasPair d.entrance d.exit = false

/-- The board lists (R132): a list holds at most 8 numbers, none twice, and exactly those of the board's own
announcements. -/
def ListsSound (s : State) : Prop :=
  ∀ b, (tget s.depBoards b).list.Nodup ∧ (tget s.depBoards b).list.length ≤ boardListSize
    ∧ ∀ n, n ∈ (tget s.depBoards b).list ↔ ∃ a, tget s.announcements n = some a ∧ a.board = b

/-- A reservation is gone: its entry is FREE, its entrance signal is at DANGER and free, and nothing is held, queued, moving
or turning for it (R79). -/
def Retired (t : State) (r : ResId) (d : RouteDef) : Prop :=
  getRes t r = none ∧ (tget t.signals d.entrance).entranceOf = none ∧ (tget t.signals d.entrance).aspect = .danger
    ∧ (∀ n l, (tget t.sections n).lock = some l → l.res ≠ r) ∧ (∀ p, (tget t.points p).lock ≠ .res r)
    ∧ (∀ p, (tget t.points p).state = .moving → (tget t.points p).throwOwner ≠ some r)
    ∧ t.tt.deckLock.holder ≠ some r ∧ (∀ o ∈ t.throwQueue, o.owner ≠ some r)
    ∧ ∀ m, m ∈ t.tt.queue ∨ t.tt.current = some m → m.kind ≠ .interlocking (some r)

/-- The reservation's owner has an event, if it is an enrolled station (R57, R167). -/
def OwnerTold (s t : State) (o : Owner) (f : EventFlag) : Prop :=
  ∀ x, o = .station x → isEnrolled s x = true → hasFlag t x f = true

/-! ### Aspects, requirements and releases -/

/-- A signal's OPEN reservation, with its definition (R20). -/
def OpenFrom (s : State) (x : SignalId) (d : RouteDef) : Prop :=
  ∃ r v, (tget s.signals x).entranceOf = some r ∧ resDef s r = some (v, d) ∧ v.state = .opened

/-- An aspect is the one that R21's table gives a signal. -/
structure ShowsAs (s : State) (x : SignalId) (a : Aspect) : Prop where
  closed : (tget s.signals x).cfg = none ∨ (tget s.signals x).controlled = false ∨ (∀ d, ¬ OpenFrom s x d) → a = .danger
  shunt : ∀ g d, (tget s.signals x).cfg = some g → (tget s.signals x).controlled = true → OpenFrom s x d →
    g.kind = .shunt → a = .proceed
  boundary : ∀ g d, (tget s.signals x).cfg = some g → (tget s.signals x).controlled = true → OpenFrom s x d →
    g.kind = .main → d.exit = .boundary → a = .caution
  main : ∀ g d y h, (tget s.signals x).cfg = some g → (tget s.signals x).controlled = true → OpenFrom s x d →
    g.kind = .main → d.exit = .signal y → (tget s.signals y).cfg = some h →
      a = match h.kind, (tget s.signals y).aspect with
        | .main, .caution => .prelim
        | .main, .prelim => .clear
        | .main, .clear => .clear
        | _, _ => .caution

/-- Every signal shows the aspect that R21's table gives it, so that the cascade of R22 has settled. -/
def AspectsSound (s : State) : Prop := ∀ x, ShowsAs s x (tget s.signals x).aspect

/-- A deck requirement is met for a reservation: the turntable is IDLE at a position that it accepts, and the deck lock is
HELD by the reservation (R44, R64). -/
abbrev DeckMet (s : State) (r : ResId) (q : DeckReq) : Prop :=
  s.tt.state = .idle ∧ (∃ p ∈ s.tt.position, q.accepts p = true) ∧ s.tt.deckLock = .held r

/-- A requirement element is met (R64). -/
abbrev Met (s : State) (r : ResId) (e : RouteElem) : Prop :=
  (∀ q ∈ e.point, (tget s.points q.point).state = posState q.pos) ∧ ∀ q ∈ e.deck, DeckMet s r q

/-- The open conditions (R66). -/
abbrev Opens (s : State) (r : ResId) (d : RouteDef) : Prop :=
  (∀ e ∈ d.overlap, (tget s.sections e.sec).occ = .clear)
    ∧ (d.cls = .main → ∀ e ∈ d.path, (tget s.sections e.sec).occ = .clear) ∧ (tget s.signals d.entrance).controlled = true
    ∧ (∃ e ∈ d.path.head?, ∃ c ∈ (tget s.sections e.sec).cfg, (tget s.districts c.district).state = .normal)
    ∧ ∀ e ∈ d.path, ∀ q ∈ e.deck, DeckMet s r q

/-- Path element `k` is releasable where the sections are occupied as a function says (R75). -/
abbrev Releasable (occ : SectionId → Occupancy) (d : RouteDef) (k : Nat) : Prop :=
  (∃ e ∈ d.path[k]?, occ e.sec = .clear) ∧ ∀ e ∈ d.path[k + 1]?, occ e.sec = .occupied

/-- The requirements of a live reservation (R64 to R67): in SETTING the cursor stands at the first element that is not met;
in PROVED and OPEN every element is met, and the reservation is OPEN exactly while the open conditions hold. -/
abbrev RequirementsLaw (s : State) (r : ResId) (v : Reservation) (d : RouteDef) : Prop :=
  (v.state = .setting → (∃ e ∈ (reqElems v d)[v.settingCursor]?, ¬ Met s r e)
      ∧ ∀ e ∈ (reqElems v d).take v.settingCursor, Met s r e)
    ∧ (v.state = .proved ∨ v.state = .opened → v.settingCursor = (reqElems v d).length
      ∧ (∀ e ∈ reqElems v d, Met s r e) ∧ (v.state = .opened ↔ Opens s r d))

/-- The cursors of a live reservation (R75, R76, R81, R83): nothing of a route being set is released; a route that is being
released stops at an element that is not releasable; and one that is held or cancelled has kept every lock or has dropped
them all. -/
abbrev ReleaseLaw (s : State) (v : Reservation) (d : RouteDef) : Prop :=
  (v.state = .setting ∨ v.state = .proved ∨ v.state = .opened → v.releaseCursor = 0)
    ∧ (v.releases = true → v.releaseCursor < d.path.length
      ∧ ¬ Releasable (fun n => (tget s.sections n).occ) d v.releaseCursor)
    ∧ (v.state = .approachHeld → v.releaseCursor = 0 ∨ v.releaseCursor = d.path.length ∧ v.overlapReleased = true)
    ∧ (v.state = .cancelling → v.releaseCursor = d.path.length ∧ v.overlapReleased = true)

/-- The timers of a live reservation run only in the states that start them (R77, R81, R86, R88). -/
abbrev TimersLaw (v : Reservation) : Prop :=
  (v.approachTimer.isSome = decide (v.state = .approachHeld)) ∧ (v.emergencyTimer.isSome = decide (v.state = .releasing))
    ∧ (v.overlapTimer.isSome = true → v.releases = true ∧ v.overlapReleased = false)
    ∧ (v.demoHold.isSome = true → v.owner = .demo
      ∧ (v.state = .setting ∨ v.state = .proved ∨ v.state = .opened ∨ v.state = .cancelling))
    ∧ (v.releaseOrigin.isSome = decide (v.state = .releasing)) ∧ (v.state = .opened → v.hasBeenOpen = true)

/-- Every live reservation obeys its laws. -/
def ReservationsSound (s : State) : Prop :=
  ∀ r v d, resDef s r = some (v, d) → RequirementsLaw s r v d ∧ ReleaseLaw s v d ∧ TimersLaw v

/-! ### The turntable -/

/-- The turntable runs a move: it is UNBOLTING, TURNING or BOLTING. -/
abbrev Turntable.runs (t : Turntable) : Prop := t.state = .unbolting ∨ t.state = .turning ∨ t.state = .bolting

/-- The state of a reservation, if it is live. -/
abbrev stateOf (s : State) (r : ResId) : Option ResState := (getRes s r).map (·.state)

/-- The law of the deck lock (R110), and that a lock is held for a route that has a deck requirement (R62). -/
abbrev DeckLockLaw (s : State) : Prop :=
  (∀ r, s.tt.deckLock = .promised r → s.tt.runs ∧ stateOf s r = some .setting)
    ∧ (∀ r, s.tt.deckLock = .held r → s.tt.runs → s.tt.current.map (·.kind) = some (.interlocking (some r))
      ∧ (stateOf s r = some .setting ∨ stateOf s r = some .cancelling))
    ∧ (∀ r ∈ s.tt.deckLock.holder, ∀ vd ∈ resDef s r, (deckReq vd.2).isSome = true)
    ∧ ∀ m ∈ s.tt.current, ∀ r, m.kind = .interlocking (some r) → s.tt.deckLock = .held r

/-- The law of the move queue (R113, R124, R62): at most 8 moves, at most 2 of them DEMO and at most one INTERLOCKING; a queued
INTERLOCKING move is that of the reservation in SETTING that has the deck, to which the present alignment is not accepted. -/
abbrev MoveQueueLaw (s : State) : Prop :=
  s.tt.queue.length ≤ 8 ∧ (s.tt.queue.filter Move.isDemo).length ≤ 2 ∧ (s.tt.queue.filter Move.isInterlocking).length ≤ 1
    ∧ ∀ m ∈ s.tt.queue, m.kind ≠ .home ∧ m.kind ≠ .interlocking none
      ∧ ∀ r, m.kind = .interlocking (some r) → s.tt.deckLock.holder = some r ∧ stateOf s r = some .setting
        ∧ ∀ vd ∈ resDef s r, ∃ q ∈ deckReq vd.2, ∃ p ∈ presentAlignment s, q.accepts p = false

/-- The turntable's current move, phase and timer by its state (R108, R114, R116 to R118, R120, R123). -/
abbrev RunningLaw (s : State) : Prop :=
  s.tt.phase.isSome = decide (s.tt.state = .homing) ∧ s.tt.stepsCounted ≤ 24
    ∧ (s.tt.stageTimer.isSome = true ↔ s.tt.runs ∨ s.tt.state = .homing)
    ∧ (s.tt.current.isSome = true ↔ s.tt.runs ∨ s.tt.state = .homing)
    ∧ ∀ m ∈ s.tt.current, (s.tt.state = .homing → m.kind = .home)
      ∧ (s.tt.runs → m.kind ≠ .home ∧ m.target.isSome = true ∧ (s.tt.state = .bolting → m.target = s.tt.position))

/-- A turntable that is absent, or whose part is not READY, is at rest (R108, R131). -/
abbrev AtRestLaw (s : State) : Prop :=
  (s.tt.cfg = none → s.tt.state = .unknown ∧ s.tt.deckLock = .free ∧ s.tt.queue = [])
    ∧ (s.loadState ≠ .ready → ¬ s.tt.runs ∧ s.tt.state ≠ .homing ∧ s.tt.queue = [])

/-- The turntable obeys its laws. -/
def TurntableSound (s : State) : Prop := RunningLaw s ∧ DeckLockLaw s ∧ MoveQueueLaw s ∧ AtRestLaw s

/-! ### Announcements and demonstrations -/

/-- The condition of an announcement: a live reservation in PROVED or OPEN has its platform signal as entrance and its train
as its train (R134). -/
abbrev Boards (s : State) (a : Announcement) : Prop :=
  ∃ r ∈ (tget s.signals a.signal).entranceOf, ∃ v ∈ getRes s r, (v.state = .proved ∨ v.state = .opened)
    ∧ a.train.isSome = true ∧ v.train = a.train

/-- The law of the announcements (R134), their linger timers and their trains (R135, R136), and that every train that a
reservation or an announcement names is on record (R104); and every line of a board shows what stands at its place (R138). -/
structure AnnouncementsSound (s : State) : Prop where
  ready : ∀ n a, tget s.announcements n = some a → (a.state = .ready ↔ Boards s a)
  linger : ∀ n a, tget s.announcements n = some a →
    (a.linger.isSome = true ↔ a.state = .departed ∨ a.state = .cancelled) ∧ (a.train = none ↔ a.state = .cancelled)
  named : ∀ n a t, tget s.announcements n = some a → a.train = some t → tget s.trains t ≠ none
  carried : ∀ r v t, getRes s r = some v → v.train = some t → tget s.trains t ≠ none
  lines : ∀ b p, (tget (tget s.depBoards b).lines p).text = lineContent s b p

/-- The number of live reservations of the demonstration owner (R58). -/
def demosLive (s : State) : Nat := ((List.finRange 64).filter fun r => (getRes s r).map (·.owner) == some .demo).length

/-- At most 4 live reservations have the demonstration owner (R58). -/
def DemosSound (s : State) : Prop := demosLive s ≤ 4

/-! ### The outputs -/

/-- What the output images hold for the configured items (R11, R20, R34, R109, R144): each signal's aspect, each booster's
enable, each point's drive, each button's lamp, and a drive of the deck in TURNING and in homing's seek phase alone. -/
structure OutputsSound (s : State) : Prop where
  heads : ∀ x g, (tget s.signals x).cfg = some g → tget (tget s.boards g.board).image.heads g.head = (tget s.signals x).aspect
  enables : ∀ d g, (tget s.districts d).cfg = some g →
    tget (tget s.boards g.board).image.enables g.channel = boosterOn (tget s.districts d)
  drives : ∀ p g, (tget s.points p).cfg = some g → tget (tget s.boards g.board).image.drives g.channel
    = if (tget s.points p).state = .moving then ((tget s.points p).target.map posDrive).getD .idle else .idle
  lamps : ∀ b g, (tget s.buttons b).cfg = some g → tget (tget s.boards g.board).image.lamps g.channel = (tget s.buttons b).state
  deck : ∀ g, s.tt.cfg = some g →
    ((tget s.boards g.board).image.ttDrive ≠ .stop ↔ s.tt.state = .turning ∨ s.tt.phase = some .seek)

/-- Until the ninth block has been checked, the items that the load configures stand at their reset values, and the output
images but for the bolt, which a layout reset leaves as it stands (R10, R11, R20, R41, R131, R144, R175). -/
structure UnreadSound (s : State) : Prop where
  items : s.loader = .header ∨ (∃ k f, s.loader = .block k f) → (∀ n, tget s.sections n = .reset)
    ∧ (∀ d, tget s.districts d = .reset) ∧ (∀ p, tget s.points p = .reset) ∧ (∀ x, tget s.signals x = .reset)
    ∧ ∀ b, tget s.buttons b = .reset
  images : s.loader = .header ∨ (∃ k f, s.loader = .block k f) → ∀ a,
    (tget s.boards a).image = { OutputImage.safe with ttBolt := (tget s.boards a).image.ttBolt }

/-- Every invariant of the tables that the statements name. -/
structure AllSound (s : State) : Prop where
  sections : SectionsSound s
  districts : DistrictsSound s
  points : PointsSound s
  throws : ThrowsSound s
  heads : HeadsSound s
  position : PositionSound s
  store : StoreSound s
  load : LoadSound s
  routes : RoutesSound s
  holds : HoldsSound s
  slots : SlotsSound s
  channels : ChannelsDistinct s
  lists : ListsSound s
  locks : LocksSound s
  aspects : AspectsSound s
  reservations : ReservationsSound s
  turntable : TurntableSound s
  announcements : AnnouncementsSound s
  demos : DemosSound s
  outputs : OutputsSound s
  unread : UnreadSound s

/-! ### What else changes a table -/

/-- The commands that work the train records: the train describer's requests, and what changes a section's occupancy to CLEAR
or OCCUPIED (R93, R98, R101 to R105). -/
def worksTrains : Instr → Bool
  | .deleteTrain _ _ _ | .editTrain _ _ _ _ | .enterTrainOffLayout _ _ _ _ _ _ => true
  | .interposeTrain _ _ _ _ _ _ _ _ | .moveTrain _ _ _ _ _ => true
  | .clearDelayExpiry _ | .image _ _ _ | .report _ _ | .chipReset _ | .layoutResetCarriedOut => true
  | _ => false

/-- The commands that work the districts: the requests and timers of the district supervisor, what the field link hands on,
and the load (R11 to R18). -/
def worksDistricts : Instr → Bool
  | .restoreDistrict _ _ _ | .faultFilterExpiry _ | .retryTimerExpiry _ | .confirmWindowExpiry _ => true
  | .image _ _ _ | .report _ _ | .fieldAnswerTimeout _ | .fieldBadAnswer _ | .lineTaken _ _ _ => true
  | .chipReset _ | .layoutResetCarriedOut | .loadConfigBlockRead | .loadRouteSlotRead | .storeAckTimeout => true
  | _ => false

/-- The commands that work the occupancy of the sections: what the field link hands on, the clear delay, a fault that trips a
district, and the resets (R2 to R6, R10). -/
def worksOccupancy : Instr → Bool
  | .clearDelayExpiry _ | .faultFilterExpiry _ | .image _ _ _ | .report _ _ => true
  | .fieldAnswerTimeout _ | .fieldBadAnswer _ | .lineTaken _ _ _ | .chipReset _ | .layoutResetCarriedOut => true
  | _ => false

/-- The commands that work the reservations and the aspects: the requests and timers of the interlocking, of the point drive,
of the turntable and of open-day mode, the requests that move a head onto or off the deck, what changes a section or gives a
district power, and what the field link hands on (R57 to R90, R21, R95, R104, R111). -/
def worksRoutes : Instr → Bool
  | .setRoute _ _ _ _ | .setThroughRoute _ _ _ | .cancelRoute _ _ _ | .emergencyRelease _ _ _ | .retryRoute _ _ _ => true
  | .overlapTimerExpiry _ | .approachTimerExpiry _ | .emergencyTimerExpiry _ | .demonstrationHoldExpiry _ => true
  | .throwPoint _ _ _ _ | .rechargeExpiry | .throwTimerExpiry _ | .setOpenDay _ _ _ => true
  | .turntableHome _ _ | .turntableMove _ _ _ _ | .turntableReset _ _ | .withdrawMove _ _ _ => true
  | .waitTimerExpiry | .stageTimerExpiry | .deleteTrain _ _ _ | .interposeTrain _ _ _ _ _ _ _ _ | .moveTrain _ _ _ _ _ => true
  | .clearDelayExpiry _ | .faultFilterExpiry _ | .confirmWindowExpiry _ | .restoreDistrict _ _ _ => true
  | .image _ _ _ | .report _ _ | .fieldAnswerTimeout _ | .fieldBadAnswer _ | .lineTaken _ _ _ => true
  | .chipReset _ | .layoutResetCarriedOut => true
  | _ => false

/-- The commands that configure items, or leave them absent (R175). -/
def worksItems : Instr → Bool
  | .loadHeaderRead | .loadConfigBlockRead | .storeAckTimeout => true
  | _ => false

/-- The commands that work the points and the throw queue: those of the point drive and of the interlocking, what changes a
section, the ends of a move, and what the field link hands on (R25 to R39). -/
def worksPoints : Instr → Bool
  | .turntableHome _ _ | .turntableMove _ _ _ _ | .withdrawMove _ _ _ | .waitTimerExpiry => false
  | .deleteTrain _ _ _ | .interposeTrain _ _ _ _ _ _ _ _ | .moveTrain _ _ _ _ _ => false
  | .confirmWindowExpiry _ | .restoreDistrict _ _ _ => false
  | c => worksRoutes c || worksItems c

/-- The commands that work the turntable record: all that work the reservations, but for those of the point drive that end no
throw and those that give a district power (R108 to R130). -/
def worksTurntable : Instr → Bool
  | .throwPoint _ _ _ _ | .rechargeExpiry | .confirmWindowExpiry _ | .restoreDistrict _ _ _ => false
  | c => worksRoutes c || worksItems c

/-- The commands that work the buttons: their own timers, and all that end a move or retire a route (R144 to R148). -/
def worksButtons : Instr → Bool
  | .lampTimerExpiry _ | .cooldownExpiry _ => true
  | c => worksTurntable c

/-- The commands that work the announcements and the lines: the display unit's own, those that edit a train, and all that
change a reservation (R132 to R142). -/
def worksBoards : Instr → Bool
  | .announce _ _ _ _ _ _ _ | .editAnnouncement _ _ _ _ | .withdrawAnnouncement _ _ _ | .lingerExpiry _ => true
  | .editTrain _ _ _ _ => true
  | c => worksRoutes c || worksItems c

/-- The commands of the field link, and those that configure the boards (R150 to R158). -/
def worksField : Instr → Bool
  | .image _ _ _ | .report _ _ | .badReport | .grantTimeout | .lineTaken _ _ _ => true
  | .fieldAnswerTimeout _ | .fieldBadAnswer _ | .boardRepollExpiry _ => true
  | .chipReset _ | .chipResetAsserted | .layoutResetCarriedOut => true
  | c => worksItems c

/-- The commands of the panel link: its replies and timers, and the resets (R159 to R161). -/
def worksPanel : Instr → Bool
  | .idle _ | .unknownRequest _ _ _ | .pollReplyTimeout | .replyBytePauseTimeout | .panelBadReply => true
  | .stationRepollExpiry _ | .chipReset _ | .chipResetAsserted | .layoutResetCarriedOut => true
  | c => (requestOf c).isSome

/-- The requests that only read, and the other events of the panel link alone (R161, R162). -/
def onlyReads : Instr → Bool
  | .readReservation _ _ _ | .readRoutesFromSignal _ _ _ | .readDistrict _ _ _ | .readPoint _ _ _ | .readSection _ _ _ => true
  | .readSignal _ _ _ | .findTrain _ _ _ | .readTrain _ _ _ | .readTurntable _ _ | .readBoard _ _ _ _ => true
  | .readButtons _ _ | .readEvents _ _ | .readStatus _ _ | .readStore _ _ _ _ | .idle _ | .unknownRequest _ _ _ => true
  | .pollReplyTimeout | .replyBytePauseTimeout | .panelBadReply | .stationRepollExpiry _ => true
  | _ => false

/-! ### Setting routes -/

/-- A section that check 7 passes for a route from `a` of a class: not locked, or locked as the overlap that the route takes
over, and CLEAR, or for a SHUNT route not UNKNOWN (R59). -/
def SectionPasses (s : State) (a : SignalId) (cls : RouteClass) (n : SectionId) : Prop :=
  (∀ l, (tget s.sections n).lock = some l → l.isOverlap = true ∧ takenOver s a = some l.res)
    ∧ match cls with
      | .main => (tget s.sections n).occ = .clear
      | .shunt => (tget s.sections n).occ ≠ .unknown

/-- A point that check 8 passes: not locked by a reservation, or named by the overlap that the route takes over, and at rest
in a known position with no order queued (R60). -/
def PointPasses (s : State) (a : SignalId) (p : PointId) : Prop :=
  (∀ r, (tget s.points p).lock = .res r → ∃ q v d, takenOver s a = some q ∧ resDef s q = some (v, d) ∧ p ∈ elemPoints d.overlap)
    ∧ (∀ o ∈ s.throwQueue, o.point ≠ p) ∧ ((tget s.points p).state = .normal ∨ (tget s.points p).state = .reverse)

/-- The throws that a route needs: its point requirements, in element order, whose point stands the other way (R60). -/
def routeThrows (s : State) (d : RouteDef) : List PointReq :=
  ((d.path ++ d.overlap).filterMap (·.point)).filter fun q => decide ((tget s.points q.point).state ≠ posState q.pos)

/-- What check 9 asks of the deck (R62). -/
def DeckPasses (s : State) (d : RouteDef) : Prop :=
  ∀ q, deckReq d = some q → s.tt.deckLock = .free ∧ s.tt.state ≠ .unknown ∧ s.tt.state ≠ .failed
    ∧ (neededAlignment s q ≠ none → s.tt.queue.length < 8)

/-- A definition that SET ROUTE from a station has found, with checks 1 to 6 passed (R58). -/
def RouteFound (st : StationId) (s : State) (n : SlotId) (d : RouteDef) : Prop :=
  Asks st s ∧ AllSound s ∧ slotDef s n = some d ∧ (tget s.slots n).writing = false
    ∧ (st = supervisor ∨ (tget s.stations st).territory.signal d.entrance = true)
    ∧ (tget s.signals d.entrance).entranceOf = none ∧ ∃ r, getRes s r = none

/-- The exit parameter that names an exit. -/
def exitNamed : RouteExit → ExitParam
  | .signal x => .signal x.val
  | .boundary => .boundary

/-! ### Trains -/

/-- `t` is `s` with one flag more for one station, where a condition holds. -/
def Flagged (c : Prop) (f : EventFlag) (x : StationId) (s t : State) : Prop :=
  t = { s with stations := t.stations }
    ∧ (∀ y, { tget t.stations y with flags := (tget s.stations y).flags } = tget s.stations y)
    ∧ ∀ y g, hasFlag t y g = true ↔ hasFlag s y g = true ∨ (c ∧ y = x ∧ g = f)

/-- No train has its head in a section. -/
def NoHead (s : State) (n : SectionId) : Prop := ∀ t v, tget s.trains t = some v → v.head ≠ some n

/-- A train has its head in a section (R91: no other has). -/
def IsHead (s : State) (n : SectionId) (t : TrainId) : Prop := ∃ v, tget s.trains t = some v ∧ v.head = some n

/-- The lowest-numbered FREE entry of a table. -/
def LowestFree {α : Type} {k : Nat} (t : Vector (Option α) k) (i : Fin k) : Prop :=
  tget t i = none ∧ ∀ j, tget t j = none → i ≤ j

/-- `w` is `u` after the head in some sections has changed: a change in the deck section lets the turntable controller
consider a start (R111, R114). -/
def HeadsChanged (l : List (Option SectionId)) (u w : State) : Prop :=
  (deckSection u ≠ none → deckSection u ∈ l → w = considerMove u)
    ∧ (deckSection u = none ∨ deckSection u ∉ l → w = u)

/-! ### New occupancies (R73, R93) -/

/-- READY, and the section is configured and not held: its detector reports are taken (R2, R6). -/
def Watched (s : State) (n : SectionId) : Prop :=
  s.loadState = .ready ∧ ∃ g, (tget s.sections n).cfg = some g ∧ (tget s.boards g.board).state = .present
    ∧ (tget s.districts g.district).state = .normal

/-- The state in which a section has gone OCCUPIED. -/
def occupiedNow (n : SectionId) (s : State) : State :=
  { s with sections := tput s.sections n { tget s.sections n with occ := .occupied, clearTimer := none } }

/-- A signal's first-beyond section and its berth section. -/
def Leads (s : State) (x : SignalId) (berth beyond : SectionId) : Prop :=
  ∃ g, (tget s.signals x).cfg = some g ∧ g.berth = berth ∧ g.firstBeyond = beyond

/-- A new occupancy of a section, carrying a lock, is taken for a signal (R73). -/
def TakenFor (s : State) (n : SectionId) (lock : Option SectionLock) (x : SignalId) : Prop :=
  let clear := fun y => ∃ b, Leads s y b n ∧ (tget s.sections b).occ = .clear
  (∃ b, Leads s x b n) ∧ match lock with
    | some l => (tget s.signals x).entranceOf = some l.res
    | none => (∀ y b, Leads s y b n → y = x) ∨ ¬ clear x ∨ ∀ y b, Leads s y b n → clear y

/-- A new occupancy is a signal passed at danger at a signal (R73). -/
def PassesAt (s : State) (n : SectionId) (lock : Option SectionLock) (x : SignalId) : Prop :=
  TakenFor s n lock x ∧ ∀ d, ¬ OpenFrom s x d

/-- A section is the berth of a signal into `n`, and a train has its head there. -/
def HeadBerth (s : State) (n p : SectionId) : Prop := (∃ x, Leads s x p n) ∧ ¬ NoHead s p

/-- The train that enters a newly occupied section comes from a section: its head stands in the predecessor, which the lock
that the change carries gives, or else the signals into the section (R93; berths count once, log 34). -/
def ComesFrom (s : State) (n : SectionId) (lock : Option SectionLock) (t : TrainId) (p : SectionId) : Prop :=
  IsHead s p t ∧ match lock with
    | some ⟨r, .path 0⟩ => ∃ v d f, resDef s r = some (v, d) ∧ Leads s d.entrance p f
    | some ⟨r, .path (k + 1)⟩ => ∃ v d e, resDef s r = some (v, d) ∧ d.path[k]? = some e ∧ e.sec = p
    | _ => HeadBerth s n p ∧ ((∀ q, HeadBerth s n q → q = p)
        ∨ (tget s.sections p).occ = .occupied ∧ ∀ q, HeadBerth s n q → (tget s.sections q).occ = .occupied → q = p)

/-- An arrival is ambiguous: several berths hold a head, and not just one of them is OCCUPIED (R93). -/
def Ambiguous (s : State) (n : SectionId) (lock : Option SectionLock) : Prop :=
  (∀ r k, lock ≠ some ⟨r, .path k⟩) ∧ (∃ p q, p ≠ q ∧ HeadBerth s n p ∧ HeadBerth s n q) ∧ ∀ t p, ¬ ComesFrom s n lock t p

/-- The demonstration unit has been told that a reservation of its own is retired: the button BUSY with it rests (R147). -/
def RestsAfter (s t : State) (r : ResId) (v : Reservation) : Prop :=
  v.owner = .demo → ∀ b, (tget s.buttons b).state = .busy → (tget s.buttons b).busyWith = some (.res r) →
    tget t.buttons b = { tget s.buttons b with
      state := .cooldown, busyWith := none, cooldownTimer := some (cooldownOf s b) }

/-- A reservation has been retired, and its owner has heard (R79). -/
def RetiredAndTold (s t : State) (r : ResId) (v : Reservation) (d : RouteDef) : Prop :=
  Retired t r d ∧ OwnerTold s t v.owner .route ∧ RestsAfter s t r v

/-- A reservation has a fault note, and ROUTE FAILED is set for its owner and the supervisor (R57). -/
def FaultTold (s t : State) (r : ResId) (v : Reservation) (x : FaultNote) : Prop :=
  (∃ w, getRes t r = some w ∧ w.state = .setting ∧ w.fault = x) ∧ OwnerTold s t v.owner .routeFailed
    ∧ hasFlag t supervisor .routeFailed = true

/-- A reservation that was in SETTING has every requirement met: it is PROVED, or OPEN where the open conditions hold, its
fault note is NONE, its owner has heard, and a demonstration hold runs from its going OPEN (R65, R66, R57, R88). -/
def Proves (s t : State) (r : ResId) (v : Reservation) (d : RouteDef) : Prop :=
  ∃ w, getRes t r = some w ∧ (w.state = .proved ∨ w.state = .opened) ∧ (w.state = .opened ↔ Opens t r d) ∧ w.fault = .clean
    ∧ w.settingCursor = (reqElems v d).length ∧ (w.state = .opened → w.hasBeenOpen = true) ∧ OwnerTold s t v.owner .route
    ∧ (v.owner = .demo → v.demoHold = none → w.state = .opened → w.demoHold = some 20000)

/-! ### The turntable -/

/-- The requester of a move has heard of its end, drop or withdrawal: an OPERATOR move's station and the supervisor by the
TURNTABLE event, and a DEMO move's BUSY button by going COOLDOWN (R112, R147). -/
def MoveTold (s t : State) (m : Move) : Prop :=
  (∀ q, m.kind = .operator q → (isEnrolled s q = true → hasFlag t q .turntable = true) ∧ hasFlag t supervisor .turntable = true)
    ∧ ∀ d b, m.kind = .demo d → (tget s.buttons b).state = .busy → (tget s.buttons b).busyWith = some (.move m.number) →
        tget t.buttons b = { tget s.buttons b with
          state := .cooldown, busyWith := none, cooldownTimer := some (cooldownOf s b) }

/-- The start conditions of a move (R114). -/
def MayStart (s : State) (m : Move) : Prop :=
  ∃ g, s.tt.cfg = some g ∧ s.tt.current = none ∧ s.tt.state = .idle
    ∧ (match m.kind with
      | .interlocking r => ∃ q, r = some q ∧ s.tt.deckLock = .held q
      | _ => s.tt.deckLock = .free)
    ∧ (tget s.sections g.pit1).occ = .clear ∧ (tget s.sections g.pit2).occ = .clear
    ∧ ((tget s.sections g.deck).occ = .clear ∨ (tget s.sections g.deck).occ = .occupied ∧ ¬ NoHead s g.deck)

/-- The target with which a move starts: its own, or for a move relative to a train the one that brings the asked end of the
train, which must stand on the deck with a facing, to the road (R126). -/
def TargetAtStart (s : State) (m : Move) (p : RoadId) : Prop :=
  match m.relative with
  | none => m.target = some p
  | some q => ∃ n v f, deckSection s = some n ∧ tget s.trains q.train = some v ∧ v.head = some n ∧ v.facing = some f
      ∧ p = endPosition q.road (if q.front then f else match f with
        | .a => .b
        | .b => .a)

/-- The turntable of `t` is that of `s` stopped in a state, with its current move ended, its queue dropped and its position
remembered; the drive is at STOP with the bolt as it stood; every requester has heard (R120, R130). A deck lock is kept,
HELD, for a reservation that is not CANCELLING. -/
structure Stopped (s t : State) (x : Turntable) : Prop where
  record : t.tt = { x with
    phase := none, stageTimer := none, lastPosition := s.tt.position.or s.tt.lastPosition, position := none
    current := none, queue := [], deckLock := t.tt.deckLock }
  drive : ∀ g, s.tt.cfg = some g → (tget t.boards g.board).image.ttDrive = .stop
    ∧ (tget t.boards g.board).image.ttBolt = (tget s.boards g.board).image.ttBolt
  free : s.tt.deckLock = .free → t.tt.deckLock = .free
  kept : ∀ r, s.tt.deckLock.holder = some r → (∀ v, getRes s r = some v → v.state ≠ .cancelling) → t.tt.deckLock = .held r
  told : hasFlag t supervisor .turntable = true ∧ ∀ m, m ∈ s.tt.queue ∨ s.tt.current = some m → MoveTold s t m

/-! ### Departure boards and buttons -/

/-- The supervisor and every enrolled station with permission for a board have the ANNOUNCE event (R137). -/
def AnnounceTold (s t : State) (b : DepBoardId) : Prop :=
  hasFlag t supervisor .announce = true
    ∧ ∀ x, isEnrolled s x = true → (tget s.stations x).territory.board b = true → hasFlag t x .announce = true

/-- A line has been rendered afresh: a text that differs replaces the line and sets its send mark, and the same text changes
nothing (R138). -/
def LineShown (s t : State) (b : DepBoardId) (p : LineNo) (text : List Byte) : Prop :=
  tget (tget t.depBoards b).lines p = if (tget (tget s.depBoards b).lines p).text = text
    then tget (tget s.depBoards b).lines p else ⟨text, true⟩

/-- An announcement has been retired (R133): its entry is FREE, it has left its board's list, and the lines from its place on
are rendered afresh. -/
structure AnnRetired (s t : State) (n : AnnId) (a : Announcement) : Prop where
  entry : t.announcements = tput s.announcements n none
  list : (tget t.depBoards a.board).list = (tget s.depBoards a.board).list.filter (· ≠ n)
  moved : ∀ p : LineNo, (tget s.depBoards a.board).list.idxOf n ≤ p.val → LineShown s t a.board p (lineContent t a.board p)
  kept : ∀ p : LineNo, p.val < (tget s.depBoards a.board).list.idxOf n →
    tget (tget t.depBoards a.board).lines p = tget (tget s.depBoards a.board).lines p
  others : ∀ b, b ≠ a.board → tget t.depBoards b = tget s.depBoards b
  told : AnnounceTold s t a.board
  rest : t = { s with announcements := t.announcements, depBoards := t.depBoards, stations := t.stations }

/-- A button's lamp output shows a state (R144). -/
def LampShows (s t : State) (b : ButtonId) (x : ButtonState) : Prop :=
  ∀ g, (tget s.buttons b).cfg = some g → tget (tget t.boards g.board).image.lamps g.channel = x

/-! ### The field link -/

/-- A GRANT is called for: the attention line is pulled, and none was sent since the last REFRESH (R153). -/
def GrantDue (s : State) : Prop := s.fieldLink.attention = true ∧ s.fieldLink.grantSent = false

/-- A configured PRESENT board. -/
def Serves (s : State) (a : BoardIdx) : Prop := (tget s.boards a).type ≠ none ∧ (tget s.boards a).state = .present

/-- Line `n` with text `t` is the lowest-numbered marked line of the departure board on a PRESENT DISPLAY board (R154). -/
def HasLine (s : State) (a : BoardIdx) (n : LineNo) (t : List Byte) : Prop :=
  Serves s a ∧ ∃ b, (tget s.depBoards b).addr = some a ∧ tget (tget s.depBoards b).lines n = ⟨t, true⟩
    ∧ ∀ m, (tget (tget s.depBoards b).lines m).mark = true → n ≤ m

/-- The LINE exchange that is due: that of the first of the DISPLAY boards whose good IMAGE has come and that has a marked
line (R154; the order of several is the model's, log 58). `rest` are those behind it. -/
def LineDue (s : State) (a : BoardIdx) (n : LineNo) (t : List Byte) (rest : List BoardIdx) : Prop :=
  HasLine s a n t ∧ ∃ l, s.fieldLink.lineDue = l ++ a :: rest ∧ ∀ b ∈ l, ∀ m x, ¬ HasLine s b m x

/-- Board `a` is the lowest FAILED board whose re-poll is due (R152, R156). -/
def RepollDue (s : State) (a : BoardIdx) : Prop :=
  let due := fun b => (tget s.boards b).type ≠ none ∧ (tget s.boards b).state = .failed ∧ (tget s.boards b).repollDue = true
  due a ∧ ∀ b, due b → a ≤ b

/-- Board `b` is the one that the round-robin reaches after the last (R152). -/
def RoundRobin (s : State) (b : BoardIdx) : Prop :=
  let polled := fun x => (tget s.boards x).type ≠ none ∧ (tget s.boards x).state ≠ .failed
  let after := fun x => ∃ a, s.fieldLink.lastRefreshed = some a ∧ a < x
  polled b ∧ ((after b ∧ ∀ x, polled x → after x → b ≤ x) ∨ ((∀ x, polled x → ¬ after x) ∧ ∀ x, polled x → b ≤ x))

/-- `t` is `s` after the line has become free: the first send that is due is made, a GRANT, the REFRESH of a board that has
just become PRESENT, a LINE, a re-poll, or the next REFRESH of the round-robin (R152, R153). Of several boards that have just
become PRESENT the one that returned first comes first (the model's choice, log 16), and of several LINEs the one whose IMAGE
came first (log 58). -/
structure SendsNext (s t : State) : Prop where
  grant : GrantDue s → t = { s with fieldLink := { s.fieldLink with outstanding := .grant, grantSent := true } }
  returned : ¬ GrantDue s → ∀ a rest, s.fieldLink.returned.filter (servesBoard s) = a :: rest →
    t = { s with fieldLink := { s.fieldLink with returned := rest, outstanding := .refresh a, grantSent := false } }
  line : ¬ GrantDue s → s.fieldLink.returned.filter (servesBoard s) = [] → ∀ a n x rest, LineDue s a n x rest →
    t = { s with fieldLink := { s.fieldLink with returned := [], lineDue := rest, outstanding := .line a n x } }
  repoll : ¬ GrantDue s → s.fieldLink.returned.filter (servesBoard s) = [] → (∀ a n x rest, ¬ LineDue s a n x rest) → ∀ a, RepollDue s a →
    t = { s with
      boards := tupd s.boards a fun b => { b with repollDue := false }
      fieldLink := { s.fieldLink with returned := [], lineDue := [], outstanding := .refresh a, grantSent := false } }
  turn : ¬ GrantDue s → s.fieldLink.returned.filter (servesBoard s) = [] → (∀ a n x rest, ¬ LineDue s a n x rest) →
    (∀ a, ¬ RepollDue s a) → ∀ b, RoundRobin s b → t = { s with fieldLink := { s.fieldLink with
      returned := [], lineDue := [], lastRefreshed := some b, outstanding := .refresh b, grantSent := false } }
  quiet : ¬ GrantDue s → s.fieldLink.returned.filter (servesBoard s) = [] → (∀ a n x rest, ¬ LineDue s a n x rest) →
    (∀ a, ¬ RepollDue s a) → (∀ b, ¬ RoundRobin s b) → t = { s with fieldLink := { s.fieldLink with
      returned := [], lineDue := [], outstanding := .quiet } }

/-- The exchange that was outstanding has ended with the attention line at a level, and the next send is made. -/
def ExchangeEnds (attention : Bool) (s t : State) : Prop :=
  SendsNext { s with fieldLink := { s.fieldLink with attention := attention } } t

/-- `t` is `s` after a miss of a board (R155, R156): the count rises; at 3 the board is FAILED with its re-poll timer at 500
ms and the BOARD event set, and the departure of one that was PRESENT is taken by its owner; a FAILED board's timer
restarts, whatever the miss (the model's choice, log 65). -/
structure Missed (a : BoardIdx) (s t : State) : Prop where
  absent : (tget s.boards a).type = none → t = s
  early : (tget s.boards a).type ≠ none → (tget s.boards a).state ≠ .failed → (tget s.boards a).missCount < 2 →
    t = { s with boards := tupd s.boards a fun b => { b with missCount := b.missCount + 1 } }
  third : (tget s.boards a).type ≠ none → (tget s.boards a).state ≠ .failed → 2 ≤ (tget s.boards a).missCount → ∃ u,
    Flagged True .board supervisor { s with boards := tupd s.boards a fun b => { b with
        state := .failed, missCount := 3, repollTimer := some 500, repollDue := false } } u
      ∧ ((tget s.boards a).state = .present → t = ownersLeave a u) ∧ ((tget s.boards a).state ≠ .present → t = u)
  failed : (tget s.boards a).type ≠ none → (tget s.boards a).state = .failed →
    t = { s with boards := tupd s.boards a fun b => { b with repollTimer := some 500 } }

/-- The items have been configured, giving `u`, and the field link begins to send if its line is quiet, giving `t`; nothing
but what a block configures has changed, and the route slots are read next (R175, R158). -/
structure ItemsRead (s u t : State) : Prop where
  slots : t.loader = .slot 0 ∧ t.loadState = s.loadState ∧ t.stationsRead = true
  items : u = { s with
    loader := u.loader, storeDamaged := u.storeDamaged, boards := u.boards, depBoards := u.depBoards
    districts := u.districts, sections := u.sections, points := u.points, signals := u.signals, tt := u.tt
    buttons := u.buttons, stations := u.stations, stationsRead := u.stationsRead, timing := u.timing }
  link : t = { u with boards := t.boards, fieldLink := t.fieldLink }
  quiet : s.fieldLink.outstanding = .quiet → ¬ GrantDue s → SendsNext u t
  busy : s.fieldLink.outstanding ≠ .quiet → t = u

end Sys2Proof.Machine
end

