-- ==== Sys2Proof/Certificates/Slice0/Obligations.lean ====
section
/-! DEFINITION. The statements for the provers: what each command of the part does, and what every step keeps. -/

open Sys2Proof Sys2Proof.Machine

/-! ### The step, the queue and the passing of time -/

/-- A step on a queue that is not empty is the front command's effect on the state with the queue's rest. -/
def Obligations.StepTakesTheFrontCommand : Prop :=
  ∀ (c : Instr) (rest : List Instr) (s : State), step { s with pending := c :: rest } = exec c { s with pending := rest }

/-- A step on an empty queue is the passing of one millisecond, which every running timer loses (the model's choice, log
1); nothing runs while RESET is held (the model's reading of R173, log 14). Every command answers a next state, and none
touches the commands that wait. While RESET is held, only the reset's own two commands change anything (the model's
reading of R173, log 14). -/
def Obligations.EveryStepAnswersAndAnEmptyQueueIsOneMillisecond : Prop :=
  (∀ s : State, s.pending = [] →
        (s.resetHeld = true → step s = .next s)
          ∧ (s.resetHeld = false → ∃ t, step s = .next t
              ∧ (∀ n, tget t.sections n = { tget s.sections n with clearTimer := (tget s.sections n).clearTimer.tick })
              ∧ (∀ d, tget t.districts d = { tget s.districts d with
                  retryTimer := (tget s.districts d).retryTimer.tick
                  confirmWindow := (tget s.districts d).confirmWindow.tick
                  faultFilter := (tget s.districts d).faultFilter.tick })
              ∧ (∀ p, tget t.points p = { tget s.points p with throwTimer := (tget s.points p).throwTimer.tick })
              ∧ t.rechargeTimer = s.rechargeTimer.tick
              ∧ (∀ r, tget t.reservations r = (tget s.reservations r).map fun v => { v with
                  approachTimer := v.approachTimer.tick, overlapTimer := v.overlapTimer.tick
                  emergencyTimer := v.emergencyTimer.tick, demoHold := v.demoHold.tick })
              ∧ t.tt = { s.tt with
                  stageTimer := s.tt.stageTimer.tick, queue := s.tt.queue.map fun m => { m with waitTimer := m.waitTimer.tick } }
              ∧ (∀ n, tget t.announcements n = (tget s.announcements n).map fun a => { a with linger := a.linger.tick })
              ∧ (∀ b, tget t.buttons b = { tget s.buttons b with
                  lampTimer := (tget s.buttons b).lampTimer.tick, cooldownTimer := (tget s.buttons b).cooldownTimer.tick })
              ∧ (∀ b, tget t.boards b = { tget s.boards b with repollTimer := (tget s.boards b).repollTimer.tick })
              ∧ (∀ x, tget t.stations x = { tget s.stations x with repollTimer := (tget s.stations x).repollTimer.tick })
              ∧ t = { s with
                  sections := t.sections, districts := t.districts, points := t.points, rechargeTimer := t.rechargeTimer
                  reservations := t.reservations, tt := t.tt, announcements := t.announcements, buttons := t.buttons
                  boards := t.boards, stations := t.stations }))
    ∧ (∀ (c : Instr) (s : State), ∃ t, exec c s = .next t ∧ t.pending = s.pending)
    ∧ (∀ (c : Instr) (s : State), s.resetHeld = true → (∀ straps, c ≠ .chipReset straps) → c ≠ .chipResetAsserted →
          exec c s = .next s)

/-! ### The panel link -/

/-- A frame of either link reads back as it was built, with every field at every value and a payload of at most 96
bytes, whatever follows it, and no other bytes read as a frame. The reply of the station polled is a good IDLE or a good
REQUEST exactly when its bytes begin with such a frame with the direction bit clear, that station in bits 3 to 0 of the
address, and that kind; any other bytes are a reply that is not good, and a REQUEST whose code is none of the catalogue,
or that has none, is an unknown request. An answer on the field link is good exactly when its bytes begin with a frame
with the board's own address, the tag of the exchange and the kind expected, and for a LINE with its line number alone;
a REPORT is good from any board and with any tag (log 11). A REFRESH carries the channels of the board's own type, and
for a DETECTOR and a DISPLAY board nothing. -/
def Obligations.AFrameReadsBackAsItWasBuilt : Prop :=
  let begins := fun (bs : List Byte) (a k tag : Byte) (p : List Byte) =>
    p.length ≤ 96 ∧ ∃ rest, bs = frameBytes ⟨a, k, tag, p⟩ ++ rest
  let station := fun (st : StationId) (a : Byte) => a.toNat < 128 ∧ a.toNat % 16 = st.val
  (∀ (f : LinkFrame) (rest : List Byte), f.payload.length ≤ 96 → readFrame (frameBytes f ++ rest) = some f)
  ∧ (∀ (bs : List Byte) (f : LinkFrame), readFrame bs = some f → begins bs f.address f.kind f.tag f.payload)
  ∧ (∀ (st : StationId) (bs : List Byte),
      (panelReply st bs = .idle ↔ ∃ a tag p, station st a ∧ begins bs a 0x02 tag p)
      ∧ (∀ tag p, panelReply st bs = .request tag p ↔ ∃ a, station st a ∧ begins bs a 0x03 tag p)
      ∧ (panelReply st bs = .idle → replyRow st bs = some (.idle st))
      ∧ (panelReply st bs = .bad ↔ replyRow st bs = some .panelBadReply)
      ∧ (∀ tag, panelReply st bs = .request tag [] → ∃ code, replyRow st bs = some (.unknownRequest st tag code))
      ∧ ∀ tag code p, panelReply st bs = .request tag (code :: p) → code ∉ catalogue →
          replyRow st bs = some (.unknownRequest st tag code))
  ∧ (∀ (a : BoardIdx) (tag : Byte) (bs : List Byte), answerGood (.refresh a) tag bs = true ↔
        ∃ p, begins bs (BitVec.ofNat 8 (a.val + 1)) 0x12 tag p)
  ∧ (∀ (a : BoardIdx) (n : LineNo) (t : List Byte) (tag : Byte) (bs : List Byte), answerGood (.line a n t) tag bs = true ↔
        begins bs (BitVec.ofNat 8 (a.val + 1)) 0x16 tag [BitVec.ofNat 8 n.val])
  ∧ (∀ (a : BoardIdx) (p bs : List Byte), reportGood bs = some (a, p) ↔
        ∃ tag, begins bs (BitVec.ofNat 8 (a.val + 1)) 0x14 tag p)
  ∧ ∀ (s : State) (a : BoardIdx) (tag : Byte) (t : BoardType), (tget s.boards a).type = some t →
      let i := (tget s.boards a).image
      frameSent s tag (.refresh a) = some ⟨BitVec.ofNat 8 (a.val + 129), 0x11, tag, match t with
        | .detector | .display => []
        | .point => packChannels (.drives i.drives)
        | .signal => packChannels (.heads i.heads)
        | .district => packChannels (.enables i.enables)
        | .turntable => packChannels (.deck i.ttDrive i.ttBolt)
        | .button => packChannels (.lamps i.lamps)⟩

/-- A good reply makes its station PRESENT with count 0 and its re-poll timer stopped; a station that was ABSENT sets
the STATION event for the supervisor. Nothing else changes. A good IDLE ends the exchange: its station is PRESENT with
count 0, no response is sent, and the next station is polled. Here and wherever a POLL is due below, none is sent while
a LAYOUT RESET waits to be carried out (the model's reading, log 12). A response carries the station, the tag, the code,
the result, the events-pending bit as the flags stand and the detail; the next station is then polled, and nothing else
changes. No reply within 20 ms, a reply that pauses for more than 5 ms and a reply that is not good are each a miss: the
count rises by 1, and at 3 the station becomes ABSENT with its re-poll timer at 2 s and the STATION event set for the
supervisor; an ABSENT station keeps its count. The next station is polled. At the expiry of its re-poll timer an ABSENT
station is polled next, at once on a free line, and the timer restarts at 2 s; a timer that is stopped does not expire.
-/
def Obligations.GoodRepliesAndMissesSettleTheLinkState : Prop :=
  (∀ (st : StationId) (s : State), SameTables s (goodReply st s) ∧ (goodReply st s).panelLink = s.panelLink
        ∧ (∀ x, { tget (goodReply st s).stations x with flags := (tget s.stations x).flags } = if x = st then
              { tget s.stations x with present := true, missCount := 0, repollTimer := none, repollDue := false }
            else tget s.stations x)
        ∧ ∀ x f, hasFlag (goodReply st s) x f
            = (hasFlag s x f || decide (x = supervisor ∧ f = .station ∧ (tget s.stations st).present = false)))
    ∧ (∀ (st : StationId) (s : State), Polled st s → ∃ t, exec (.idle st) s = .next t ∧ PollsNext (goodReply st s) t
          ∧ SameTables s t ∧ t.panelLink.response = s.panelLink.response
          ∧ (tget t.stations st).present = true ∧ (tget t.stations st).missCount = 0 ∧ (tget t.stations st).repollTimer = none)
    ∧ (∀ (st : StationId) (tag code : Byte) (c : ResultCode) (d : Detail) (s : State),
          (answered st tag code c d s).panelLink.response = some ⟨st, tag, code, c, anyFlag s st, d⟩
            ∧ (anyFlag s st = true ↔ ∃ f : EventFlag, hasFlag s st f = true)
            ∧ PollsNext { s with panelLink := { s.panelLink with response := some ⟨st, tag, code, c, anyFlag s st, d⟩ } }
                (answered st tag code c d s))
    ∧ (∀ (c : Instr) (st : StationId) (s : State), c = .pollReplyTimeout ∨ c = .replyBytePauseTimeout ∨ c = .panelBadReply →
          Polled st s → isEnrolled s st = true → ∃ u t, exec c s = .next t ∧ PollsNext u t ∧ SameTables s t
            ∧ u.panelLink = s.panelLink
            ∧ ((tget s.stations st).present = true → (tget s.stations st).missCount < 2 →
                u = { s with stations := tupd s.stations st fun e => { e with missCount := e.missCount + 1 } })
            ∧ ((tget s.stations st).present = true → 2 ≤ (tget s.stations st).missCount →
                (∀ x, { tget u.stations x with flags := (tget s.stations x).flags } = if x = st then
                    { tget s.stations x with present := false, missCount := 3, repollTimer := some 2000, repollDue := false }
                  else tget s.stations x)
                  ∧ ∀ x f, hasFlag u x f = (hasFlag s x f || decide (x = supervisor ∧ f = .station)))
            ∧ ((tget s.stations st).present = false → u = s))
    ∧ (∀ (st : StationId) (s : State), s.resetHeld = false →
          ((tget s.stations st).repollTimer = none → exec (.stationRepollExpiry st) s = .next s)
            ∧ ((tget s.stations st).repollTimer ≠ none → ∃ t, exec (.stationRepollExpiry st) s = .next t ∧ SameTables s t
                ∧ (tget t.stations st).repollTimer = some 2000 ∧ t.panelLink.response = s.panelLink.response
                ∧ (∀ x, s.panelLink.polled = some x → t.panelLink = s.panelLink ∧ (tget t.stations st).repollDue = true)
                ∧ (s.panelLink.polled = none → PollsNext { s with stations := tupd s.stations st fun e =>
                    { e with repollTimer := some 2000, repollDue := true } } t)))

/-- The load-state rule: a request that the load state does not take is answered NOT READY with its tag and its code,
and changes nothing; any other request is answered once, with its tag and its code. A request whose code is not in the
catalogue, or whose parameters are of no form its rule gives, is refused BAD REQUEST in every load state and changes
nothing. A request or an IDLE is taken only from the station polled: with no POLL outstanding it is discarded, and from
another station it is a reply that is not good. -/
def Obligations.WhichRequestsAreTaken : Prop :=
  (∀ (c : Instr) (st : StationId) (tag code : Byte) (s : State), requestOf c = some (st, tag, code) → Polled st s →
        (takenIn c s.loadState = false →
            exec c s = .next (answered st tag code .notReady (.loadState s.loadState) (goodReply st s)))
          ∧ (takenIn c s.loadState = true → ∃ y d u, exec c s = .next (answered st tag code y d u)))
    ∧ (∀ (st : StationId) (tag code : Byte) (s : State), Polled st s →
          exec (.unknownRequest st tag code) s = .next (answered st tag code .badRequest .nothing (goodReply st s)))
    ∧ (∀ (c : Instr) (st : StationId) (s : State),
          ((∃ tag code, requestOf c = some (st, tag, code)) ∨ c = .idle st ∨ ∃ tag code, c = .unknownRequest st tag code) →
          (s.panelLink.polled = none → exec c s = .next s)
            ∧ (∀ x, s.panelLink.polled = some x → x ≠ st → exec c s = exec .panelBadReply s))

/-- READ EVENTS reports the requesting station's flags and clears exactly those, so that the events-pending bit is not
set; the other stations' flags are left. -/
def Obligations.ReadEventsReportsAndClearsTheFlags : Prop :=
  ∀ (st : StationId) (tag : Byte) (s : State), Asks st s → ∃ l u,
    exec (.readEvents st tag) s = .next (answered st tag 0x61 .done (.events l) u)
      ∧ (∀ f, f ∈ l ↔ hasFlag (goodReply st s) st f = true)
      ∧ u = { goodReply st s with stations := u.stations }
      ∧ (∀ f, hasFlag u st f = false) ∧ anyFlag u st = false
      ∧ ∀ x, x ≠ st → tget u.stations x = tget (goodReply st s).stations x

/-- READ STATUS, from any station and in any load state, reports the part as a whole and changes nothing. -/
def Obligations.ReadStatusReportsThePart : Prop :=
  ∀ (st : StationId) (tag : Byte) (s : State), Polled st s → LoadSound s →
    exec (.readStatus st tag) s = .next (answered st tag 0x62 .done (.status {
      loadState := s.loadState, storeDamaged := s.storeDamaged
      imageVersion := if s.loadState = .noImage then none else s.imageVersion
      writing := s.write.isSome, lastStoreResult := s.lastStoreResult
      definedSlots := (idsWhere s.slots fun e => e.status.isDefined).length
      damagedSlots := (idsWhere s.slots fun e => e.status.isDamaged).length
      rejectedSlots := (idsWhere s.slots fun e => e.status.isRejected).length
      linkRate := s.linkRate, openDay := s.openDay
      liveReservations := (idsWhere s.reservations fun v => v.isSome).length
      demoReservations := (idsWhere s.reservations fun v => v.map (·.owner) == some .demo).length
      trains := (idsWhere s.trains fun v => v.isSome).length
      announcements := (idsWhere s.announcements fun v => v.isSome).length
      queuedThrows := s.throwQueue.length, movingThrows := (idsWhere s.points fun e => e.state == .moving).length
      turntable := s.tt.state, interrupted := s.tt.interrupted
      stations := ((List.finRange 15).filter fun x => isEnrolled s x).map fun x =>
        (x, (tget (goodReply st s).stations x).present)
      boards := (idsWhere s.boards fun b => b.type.isSome).map fun a => (a, (tget s.boards a).state)
      lastRefusal := s.panelLink.lastRefusal }) (goodReply st s))
    ∧ SameTables s (answered st tag 0x62 .done (.status (statusView (goodReply st s))) (goodReply st s))

/-! ### Resets and the load -/

/-- The state right after reset has every block's chip reset values; the straps read 00 and no byte of the store is
listed (the model's choices, logs 2 and 3). Every invariant of the tables holds at the state right after reset. The end
of a chip reset latches the straps and gives every block its chip reset values; the store keeps what it holds. While
RESET goes active nothing is sent on either link or on the store port, and a load and a store write are abandoned; the
tables, the last RESPONSE and the attention level stand until the reset ends (the model's reading, log 14). -/
def Obligations.AChipResetLeavesTheChipResetValues : Prop :=
  (HasChipResetValues State.reset ∧ State.reset.linkRate = 0 ∧ State.reset.store = [] ∧ State.reset.pending = [])
    ∧ (AllSound State.reset)
    ∧ (∀ (straps : BitVec 2) (s : State), ∃ t, exec (.chipReset straps) s = .next t ∧ HasChipResetValues t
          ∧ t.linkRate = straps ∧ t.timing = ⟨500, 300, 4000, 30000, 120000, 8000, 20000⟩
          ∧ (s.write = none → t.store = s.store ∧ t.torn = s.torn))
    ∧ (∀ s : State, ∃ t, exec .chipResetAsserted s = .next t ∧ t.resetHeld = true ∧ t.panelLink.polled = none
          ∧ t.fieldLink.outstanding = .quiet ∧ t.loader = .idle ∧ t.write = none ∧ t.lastStoreResult = none
          ∧ (s.write = none → t.store = s.store ∧ t.torn = s.torn)
          ∧ t = { s with
              resetHeld := true, loader := .idle, lastStoreResult := none, write := none
              fieldLink := { s.fieldLink with outstanding := .quiet }, panelLink := { s.panelLink with polled := none }
              store := t.store, torn := t.torn, freeCtr := t.freeCtr })

/-- LAYOUT RESET is answered DONE before it is carried out, and no station is polled until then (log 12); from any
station but the supervisor it is refused NOT PERMITTED. A LAYOUT RESET that is due gives every layout table its layout
reset values, keeps the link states of the stations and of the boards, the link rate and the store, clears every flag,
and starts the loader. An IDLE turntable stays where it stands. Every station is treated as enrolled, with no territory,
and one that was not enrolled becomes PRESENT with count 0 (the model's reading of R160, log 13). -/
def Obligations.ALayoutResetIsAnsweredAndCarriedOut : Prop :=
  (∀ (st : StationId) (tag : Byte) (s : State), Polled st s → s.loadState ≠ .loading →
        (st ≠ supervisor →
            exec (.layoutReset st tag) s = .next (answered st tag 0x60 .notPermitted .nothing (goodReply st s)))
          ∧ (st = supervisor → ∃ t, exec (.layoutReset st tag) s = .next t
              ∧ t = answered st tag 0x60 .done .nothing { goodReply st s with layoutResetDue := true }
              ∧ t.panelLink.polled = none))
    ∧ (∀ s : State, s.resetHeld = false →
          (s.layoutResetDue = false → exec .layoutResetCarriedOut s = .next s)
            ∧ (s.layoutResetDue = true → ∃ t, exec .layoutResetCarriedOut s = .next t
                ∧ (∀ n, tget t.sections n = ⟨.unknown, none, none, none⟩)
                ∧ (∀ d, tget t.districts d = ⟨.off, 0, none, none, none, none, none⟩)
                ∧ (∀ x, tget t.signals x = ⟨.danger, false, none, none⟩)
                ∧ (∀ p, tget t.points p = ⟨.unknown, none, none, false, none, .free, none, none⟩)
                ∧ t.throwQueue = [] ∧ t.rechargeTimer = none
                ∧ (∀ n, tget t.slots n = ⟨.absent .notLoaded, false⟩) ∧ (∀ r, tget t.reservations r = none)
                ∧ (∀ x, tget t.trains x = none) ∧ (∀ n, tget t.announcements n = none)
                ∧ (∀ b, (tget t.depBoards b).list = [] ∧ ∀ l, tget (tget t.depBoards b).lines l = ⟨List.replicate 32 space, true⟩)
                ∧ t.openDay = false ∧ (∀ b, tget t.buttons b = ⟨.off, none, none, none, none, none⟩)
                ∧ (s.tt.state = .idle → t.tt = { s.tt with
                    queue := [], current := none, deckLock := .free, stageTimer := none, stepsCounted := 0
                    lastIndexCount := none, nextMoveNo := 0, phase := none })
                ∧ (s.tt.state ≠ .idle → t.tt = { s.tt with
                    state := .unknown, lastPosition := s.tt.position.or s.tt.lastPosition, position := none
                    interrupted := true, queue := [], current := none, deckLock := .free, stageTimer := none
                    stepsCounted := 0, lastIndexCount := none, nextMoveNo := 0, phase := none })
                ∧ (∀ a, tget t.boards a = { tget s.boards a with
                    image := { OutputImage.safe with ttBolt := (tget s.boards a).image.ttBolt } })
                ∧ (∀ x, isEnrolled s x = true → (tget t.stations x).present = (tget s.stations x).present
                    ∧ (tget t.stations x).missCount = (tget s.stations x).missCount
                    ∧ (tget t.stations x).repollTimer = (tget s.stations x).repollTimer)
                ∧ (∀ x, isEnrolled s x = false → (tget t.stations x).present = true ∧ (tget t.stations x).missCount = 0
                    ∧ (tget t.stations x).repollTimer = none)
                ∧ (∀ x, isEnrolled t x = true ∧ (tget t.stations x).territory = .empty ∧ ∀ f, hasFlag t x f = false)
                ∧ t.linkRate = s.linkRate ∧ t.storeDamaged = false ∧ t.write = none ∧ t.lastStoreResult = none
                ∧ t.loadState = .loading ∧ t.loader = .header ∧ t.panelLink.lastRefusal = none
                ∧ (s.write = none → t.store = s.store ∧ t.torn = s.torn)))

/-- A header whose page is whole and whose signature (its characters in ASCII, log 6) and CRC are good is accepted with
its image version, and the blocks are read; any other header ends the load in NO_IMAGE. One of the first eight config
blocks fails when its area is not whole, its CRC does not match the header's or its item count differs; a failed block
sets STORE DAMAGED. The blocks are read in order. -/
def Obligations.TheHeaderAndTheConfigBlocksAreChecked : Prop :=
  (∀ s : State, s.resetHeld = false →
        (s.loader ≠ .header → exec .loadHeaderRead s = .next s)
          ∧ (s.loader = .header →
              let h := memReads s.store 0 64
              let good := areaWhole s 0 64 = true ∧ h.take 4 = [0x4A, 0x58, 0x47, 0x53] ∧ crc16 (h.take 62) = wordAt h 62
              (good → exec .loadHeaderRead s = .next { s with imageVersion := some (wordAt h 4), loader := .block 0 [] })
                ∧ (¬ good → ∃ t, exec .loadHeaderRead s = .next t ∧ EndsInNoImage s t)))
    ∧ (∀ (s : State) (k : Fin 9) (failed : List (Fin 9)), s.resetHeld = false → s.loader = .block k failed → ∀ j : Fin 9, j.val = k.val + 1 →
          let bs := memReads s.store (blockArea k).1 (blockArea k).2
          let h := memReads s.store 0 64
          let good := areaWhole s (blockArea k).1 (blockArea k).2 = true ∧ crc16 bs = wordAt h (10 + 4 * k.val)
            ∧ BitVec.ofNat 16 (itemCount k bs) = wordAt h (8 + 4 * k.val)
          (good → exec .loadConfigBlockRead s = .next { s with loader := .block j failed })
            ∧ (¬ good → exec .loadConfigBlockRead s = .next { s with loader := .block j (failed ++ [k]), storeDamaged := true }))

/-- The ninth block is checked as the others are, and the items are then configured (in the model, in one step: log 10),
each taking its place only if it names configured items and a board of its type, and an input or a channel that no
lower-numbered item of its kind has: districts, sections, points and signals, a signal being controlled while its board
is PRESENT. An item whose block has failed is absent, like one marked unused. Nothing else of the item changes, and the
route slots are read next. -/
def Obligations.TheTrackIsConfiguredAfterTheBlocks : Prop :=
  ∀ (s : State) (failed bad : List (Fin 9)), s.resetHeld = false → s.loader = .block 8 failed → UnreadSound s →
    BlockChecked s 8 failed bad → ∃ u t, exec .loadConfigBlockRead s = .next t ∧ ItemsRead s u t
      ∧ u.storeDamaged = (s.storeDamaged || decide (bad ≠ failed)) ∧ ItemsFit u ∧ ChannelsDistinct u
      ∧ (∀ d, tget u.districts d = { DistrictRec.reset with cfg := (tget u.districts d).cfg })
      ∧ (∀ n, tget u.sections n = { SectionRec.reset with cfg := (tget u.sections n).cfg })
      ∧ (∀ p, tget u.points p = { PointRec.reset with cfg := (tget u.points p).cfg })
      ∧ (∀ x, tget u.signals x = { SignalRec.reset with
          cfg := (tget u.signals x).cfg, controlled := (tget u.signals x).controlled })
      ∧ (∀ x, (tget u.signals x).controlled = true ↔
          ∃ g, (tget u.signals x).cfg = some g ∧ (tget u.boards g.board).state = .present)
      ∧ (∀ d g, (tget u.districts d).cfg = some g ↔ ∃ e,
          ((areaGiven s bad 3).bind fun l => Config.districtEntry l d.val) = some e
            ∧ NamesBoard u .district e.board g.board ∧ e.channel = g.channel.val
            ∧ ∀ c, c < d → (tget u.districts c).cfg ≠ some g)
      ∧ (∀ n g, (tget u.sections n).cfg = some g ↔ ∃ e,
          ((areaGiven s bad 0).bind fun l => Config.sectionEntry l n.val) = some e
            ∧ e.district = g.district.val ∧ (tget u.districts g.district).cfg.isSome = true
            ∧ NamesBoard u .detector e.board g.board ∧ e.input = g.input.val
            ∧ ∀ m h, m < n → (tget u.sections m).cfg = some h → h.board ≠ g.board ∨ h.input ≠ g.input)
      ∧ (∀ p g, (tget u.points p).cfg = some g ↔ ∃ e,
          ((areaGiven s bad 1).bind fun l => Config.pointEntry l p.val) = some e
            ∧ NamesSection u e.sec g.sec ∧ NamesBoard u .point e.board g.board ∧ e.channel = g.channel.val
            ∧ ∀ q h, q < p → (tget u.points q).cfg = some h → h.board ≠ g.board ∨ h.channel ≠ g.channel)
      ∧ ∀ x g, (tget u.signals x).cfg = some g ↔ ∃ e,
          ((areaGiven s bad 2).bind fun l => Config.signalEntry l x.val) = some e
            ∧ (e.shunt = true ↔ g.kind = .shunt) ∧ NamesBoard u .signal e.board g.board ∧ e.head = g.head.val
            ∧ NamesSection u e.berth g.berth ∧ NamesSection u e.firstBeyond g.firstBeyond
            ∧ ∀ y h, y < x → (tget u.signals y).cfg = some h → h.board ≠ g.board ∨ h.head ≠ g.head

/-- The ninth block having been checked, the boards, the departure boards, the turntable, the buttons, the stations and
the timing constants are configured (in one step: log 10). A board keeps its state only with its type, and its mismatch
mark in any case (the model's reading, log 45); a turntable takes its place if every section and road that it names is
configured (log 20), a road whose section a lower-numbered one has not being built, and stays as it stands, but for one
that is absent and an IDLE one on another board (the model's choice, log 49), which are UNKNOWN; a button takes its
place if its entry is in range and its board and channel serve, whatever its road, its turntable or its slot (the
model's reading of what R175 asks to be configured, log 20); station 0 is enrolled whatever the block says; and
constants out of range or missing take the defaults. -/
def Obligations.TheRestIsConfiguredAfterTheBlocks : Prop :=
  ∀ (s : State) (failed bad : List (Fin 9)), s.resetHeld = false → s.loader = .block 8 failed → UnreadSound s →
    BlockChecked s 8 failed bad → ∃ u t, exec .loadConfigBlockRead s = .next t ∧ ItemsRead s u t
      ∧ (∀ a, let b := tget s.boards a
          let x := (areaGiven s bad 4).bind fun l => Config.boardEntry l a.val
          (b.type = x → x ≠ none → tget u.boards a = b)
            ∧ (b.type ≠ x ∨ x = none → tget u.boards a = { b with
                type := x, state := .unknown, missCount := 0, repollTimer := none, repollDue := false }))
      ∧ (let named := fun b : DepBoardId => ((areaGiven s bad 4).bind fun l => Config.departureEntry l b.val).bind id
        ∀ b, tget u.depBoards b = { tget s.depBoards b with addr := (tget u.depBoards b).addr }
          ∧ ∀ a, (tget u.depBoards b).addr = some a ↔
            named b = some (a.val + 1) ∧ HasType u .display a ∧ ∀ c, c < b → named c ≠ some (a.val + 1))
      ∧ (∀ g, u.tt.cfg = some g ↔ ∃ e, (areaGiven s bad 6).bind Config.turntableEntry = some e
          ∧ NamesBoard u .turntable e.board g.board ∧ NamesSection u e.deck g.deck ∧ NamesSection u e.pit1 g.pit1
          ∧ NamesSection u e.pit2 g.pit2 ∧ (∀ j n, tget e.roads j = some n → ∃ k, NamesSection u n k)
          ∧ ∀ j k, tget g.roads j = some k ↔ tget e.roads j = some k.val ∧ ∀ i, i < j → tget e.roads i ≠ some k.val)
      ∧ (let unplaced := { s.tt with
            state := .unknown, lastPosition := s.tt.position.or s.tt.lastPosition, position := none }
        (u.tt.cfg = none → u.tt = { unplaced with cfg := none })
          ∧ ∀ g, u.tt.cfg = some g →
            let moved := s.tt.state = .idle ∧ s.tt.cfg.map (·.board) ≠ some g.board
            (moved → u.tt = { unplaced with cfg := some g }) ∧ (¬ moved → u.tt = { s.tt with cfg := some g }))
      ∧ (∀ b, tget u.buttons b = { ButtonRec.reset with cfg := (tget u.buttons b).cfg }
          ∧ ∀ g, (tget u.buttons b).cfg = some g ↔ ∃ e,
            ((areaGiven s bad 7).bind fun l => Config.buttonEntry l b.val) = some e
              ∧ NamesBoard u .button e.board g.board ∧ e.channel = g.channel.val
              ∧ g.cooldown = (if 10 ≤ e.cooldown ∧ e.cooldown ≤ 600 then e.cooldown else 60)
              ∧ e.kind = (match g.kind with
                | .turntable j f => .turntable j.val (decide (f = .b))
                | .route n => .route n.val)
              ∧ ∀ c h, c < b → (tget u.buttons c).cfg = some h → h.board ≠ g.board ∨ h.channel ≠ g.channel)
      ∧ (∀ x, let e := (areaGiven s bad 5).bind fun l => Config.stationEntry l x.val
          let before := tget s.stations x
          let after := tget u.stations x
          (isEnrolled u x = true ↔ x = supervisor ∨ ∃ y, e = some y ∧ y.enrolled = true)
            ∧ (e = none → after.territory = .empty)
            ∧ (∀ y, e = some y → after.territory.boards = y.boards ∧ after.territory.turntable = y.turntable
              ∧ (∀ n, after.territory.signal n = true ↔ RangeGives y.signals1 n.val ∨ RangeGives y.signals2 n.val)
              ∧ ∀ n, after.territory.point n = true ↔ RangeGives y.points1 n.val ∨ RangeGives y.points2 n.val)
            ∧ (isEnrolled s x = isEnrolled u x →
              after = { before with enrolled := after.enrolled, territory := after.territory })
            ∧ (isEnrolled s x = true → isEnrolled u x = false → after.repollTimer = none ∧ after.repollDue = false
              ∧ ∀ f, hasFlag u x f = false)
            ∧ (isEnrolled s x = false → isEnrolled u x = true →
              after.present = true ∧ after.missCount = 0 ∧ after.repollTimer = none))
      ∧ (let kept := fun (lo hi dflt : Nat) (n : Nat) => if lo ≤ n ∧ n ≤ hi then n else dflt
        let e := (areaGiven s bad 8).bind Config.timingEntry
        (e = none → u.timing = ⟨500, 300, 4000, 30000, 120000, 8000, 20000⟩)
          ∧ ∀ y, e = some y → u.timing = ⟨kept 100 2000 500 y.clearDelay, kept 100 2000 300 y.rechargeGap,
            kept 1000 10000 4000 y.throwTime, kept 0 120000 30000 y.overlapTime, kept 30000 600000 120000 y.emergencyTime,
            kept 2000 20000 8000 y.stepTime, kept 5000 120000 20000 y.lingerTime⟩)

/-- A loaded slot becomes UNUSED, DAMAGED, INVALID, DUPLICATE or DEFINED as its stored page says; DAMAGED sets STORE
DAMAGED, and before the last slot nothing else changes. After the last slot the load state is READY: each configured
district leaves OFF, NORMAL with its booster on where its board is PRESENT and TRIPPED with its retry timer stopped
where not, and the STORE event is set for the supervisor. The form checks accept only a definition of the limits of R46:
an exit other than the entrance, 1 to 12 path elements, at most 3 approach and 4 overlap elements, no overlap on a SHUNT
route or with a BOUNDARY exit, a deck requirement on path elements alone, and no section and no point twice. The layout
checks give the first of R47's checks 9 to 15 that fails: the entrance signal's kind, the exit signal, the sections, the
points in their elements' sections, the deck requirement on the deck section and there alone, path element 0 first
beyond the entrance, and the last path element and overlap element 0 before and beyond an exit signal. -/
def Obligations.TheRouteSlotsAreDecidedAndTheLoadEnds : Prop :=
  (∀ (s : State) (n m : SlotId), s.resetHeld = false → s.loader = .slot n → m.val = n.val + 1 → ∃ x,
        Decides s n x ∧ exec .loadRouteSlotRead s = .next { s with
          slots := tupd s.slots n fun e => { e with status := x }, loader := .slot m
          storeDamaged := s.storeDamaged || decide (x = .absent .damaged) })
    ∧ (∀ s : State, s.resetHeld = false → s.loader = .slot 511 → ∃ x t, Decides s 511 x ∧ exec .loadRouteSlotRead s = .next t
          ∧ t.slots = (tupd s.slots 511 fun e => { e with status := x }) ∧ t.loadState = .ready ∧ t.loader = .idle
          ∧ hasFlag t supervisor .store = true ∧ (t.storeDamaged = (s.storeDamaged || decide (x = .absent .damaged)))
          ∧ (∀ d, (tget s.districts d).cfg = none → tget t.districts d = tget s.districts d)
          ∧ (∀ d c, (tget s.districts d).cfg = some c → tget t.districts d = { tget s.districts d with
              state := if boardPresent s c.board then .normal else .tripped, retryCount := 0, cause := none
              retryTimer := none, confirmWindow := none, faultFilter := none })
          ∧ (∀ d c, (tget s.districts d).cfg = some c → boardPresent s c.board = true →
              tget (tget t.boards c.board).image.enables c.channel = true)
          ∧ t = { s with
              slots := t.slots, loadState := .ready, loader := .idle, districts := t.districts, boards := t.boards
              stations := t.stations, storeDamaged := t.storeDamaged })
    ∧ (∀ (bs : List Byte) (d : RouteDef), formCheck bs = .ok d →
          d.exit ≠ .signal d.entrance ∧ d.approach.length ≤ 3 ∧ 1 ≤ d.path.length ∧ d.path.length ≤ 12 ∧ d.overlap.length ≤ 4
            ∧ (d.cls = .shunt → d.overlap = []) ∧ (d.exit = .boundary → d.overlap = []) ∧ (∀ e ∈ d.overlap, e.deck = none)
            ∧ (d.approach ++ d.path.map (·.sec) ++ d.overlap.map (·.sec)).Nodup
            ∧ (elemPoints d.path ++ elemPoints d.overlap).Nodup)
    ∧ ∀ (s : State) (d : RouteDef), d.path ≠ [] → (∀ e ∈ d.overlap, e.deck = none) →
          (∀ k, layoutCheck s d = some k ↔ ¬ PassesLayout s d k ∧ ∀ j, j < k → PassesLayout s d j)
            ∧ (layoutCheck s d = none ↔ ∀ k, PassesLayout s d k)

/-! ### The store -/

/-- A store access that is not acknowledged within 10 ms: the header ends the load in NO_IMAGE, a block fails, a slot is
DAMAGED, and a page write fails and ends its write with the STORE event, the route slot keeping its old content. A page
that is acknowledged is in the store as it was read back (the model's reading, log 30). One that reads back as written
is followed by the header page, and after that the write ends DONE; one that does not ends it FAILED. A route slot's
working copy is replaced when its write ends DONE in READY, and keeps its old content otherwise; either end clears its
mark and sets the STORE event. The header has its signature in ASCII (log 6), keeps in READY its version and the entries
of the blocks that are not written, and counts one write more (the model's reading, log 36). No command but the end or
the abandonment of a page write changes a byte of the store, and those change bytes of that page alone. -/
def Obligations.StoreAccessesAreAcknowledgedAndVerified : Prop :=
  (∀ s : State, s.resetHeld = false →
        (s.loader = .header → ∃ t, exec .storeAckTimeout s = .next t ∧ EndsInNoImage s t)
          ∧ (∀ k failed j, s.loader = .block k failed → j.val = k.val + 1 →
              exec .storeAckTimeout s = .next { s with loader := .block j (failed ++ [k]), storeDamaged := true })
          ∧ (∀ n m, s.loader = .slot n → m.val = n.val + 1 → exec .storeAckTimeout s = .next { s with
              slots := tupd s.slots n fun e => { e with status := .absent .damaged }, loader := .slot m, storeDamaged := true })
          ∧ (∀ failed, s.loader = .block 8 failed → ∃ t, exec .storeAckTimeout s = .next t ∧ t.loader = .slot 0
              ∧ t.storeDamaged = true ∧ t.timing = ⟨500, 300, 4000, 30000, 120000, 8000, 20000⟩)
          ∧ (s.loader = .slot 511 → ∃ t, exec .storeAckTimeout s = .next t ∧ t.loader = .idle ∧ t.loadState = .ready
              ∧ t.storeDamaged = true ∧ t.slots = (tupd s.slots 511 fun e => { e with status := .absent .damaged }))
          ∧ (s.loader = .idle → s.write = none → exec .storeAckTimeout s = .next s)
          ∧ (∀ w, s.loader = .idle → s.write = some w → ∃ t, exec .storeAckTimeout s = .next t ∧ t.write = none
              ∧ t.lastStoreResult = some (.failed w.page) ∧ hasFlag t supervisor .store = true
              ∧ (∀ n, w.what = .slot n → tget t.slots n = { tget s.slots n with writing := false })
              ∧ (∀ m, w.what ≠ .slot m → tget t.slots m = tget s.slots m)
              ∧ t = { s with
                  write := none, lastStoreResult := t.lastStoreResult, slots := t.slots, stations := t.stations
                  store := t.store, torn := t.torn, freeCtr := t.freeCtr }))
    ∧ (∀ (readBack : Page) (s : State), s.resetHeld = false → StoreSound s →
          (s.write = none → exec (.storePageWritten readBack) s = .next s)
            ∧ ∀ w, s.write = some w → ∃ t, exec (.storePageWritten readBack) s = .next t
              ∧ memReads t.store w.page.address 64 = readBack.toList
              ∧ (∀ a, a < w.page.address ∨ w.page.address + 64 ≤ a → memRead t.store a = memRead s.store a)
              ∧ (readBack.toList = w.bytes → w.page ≠ .header → ∃ h, t.write = some ⟨w.what, .header, h⟩
                  ∧ t.lastStoreResult = s.lastStoreResult ∧ t.slots = s.slots ∧ t.stations = s.stations
                  ∧ (s.loadState ≠ .noImage → IsHeader h (wordAt (memReads t.store 0 64) 4) (wordAt (memReads t.store 0 64) 6 + 1)
                      fun k => match w.what with
                        | .config j _ => if j = k then (BitVec.ofNat 16 (itemCount k (areaBytes t k)), crc16 (areaBytes t k))
                          else blockEntry (memReads t.store 0 64) k
                        | _ => blockEntry (memReads t.store 0 64) k)
                  ∧ (s.loadState = .noImage → IsHeader h
                      (if headerGood t = true then wordAt (memReads t.store 0 64) 4 else 0) 1
                      fun k => (BitVec.ofNat 16 (itemCount k (areaBytes t k)), crc16 (areaBytes t k))))
              ∧ (readBack.toList ≠ w.bytes ∨ w.page = .header → t.write = none ∧ hasFlag t supervisor .store = true
                  ∧ t.lastStoreResult = some (if readBack.toList = w.bytes then .done w.what else .failed w.page)
                  ∧ (∀ n, w.what = .slot n → (tget t.slots n).writing = false
                      ∧ (readBack.toList = w.bytes → s.loadState = .ready →
                          (natAt (slotPage t n) 0 = 0xFF → (tget t.slots n).status = .absent .unused)
                            ∧ ∀ d, natAt (slotPage t n) 0 ≠ 0xFF → formCheck (slotPage t n) = .ok d →
                              (tget t.slots n).status = .defined d)
                      ∧ (readBack.toList ≠ w.bytes ∨ s.loadState ≠ .ready → (tget t.slots n).status = (tget s.slots n).status))
                  ∧ ∀ m, w.what ≠ .slot m → tget t.slots m = tget s.slots m)
              ∧ t = { s with
                  write := t.write, lastStoreResult := t.lastStoreResult, slots := t.slots, stations := t.stations
                  store := t.store, torn := t.torn })
    ∧ (∀ (c : Instr) (s t : State), StoreSound s → exec c s = .next t →
          (s.write = none → t.store = s.store ∧ t.torn = s.torn)
            ∧ ∀ w a, s.write = some w → a < w.page.address ∨ w.page.address + 64 ≤ a → memRead t.store a = memRead s.store a)

/-- The checks of WRITE ROUTE SLOT in their order, the store controller's and then the route table's; an admitted write
is answered ACCEPTED, its page is being written, and in READY the slot's writing mark is set. The checks of WRITE CONFIG
BLOCK in their order; an admitted write is answered ACCEPTED and its page is being written, and no working table
changes. -/
def Obligations.StoreWritesAreCheckedAndAdmitted : Prop :=
  (∀ (st : StationId) (tag : Byte) (slot : Nat) (bytes : Page) (s : State), Polled st s → s.loadState ≠ .loading →
        let c := Instr.writeRouteSlot st tag slot bytes
        let answer := fun r d => exec c s = .next (answered st tag 0x65 r d (goodReply st s))
        (st ≠ supervisor → answer .notPermitted .nothing)
          ∧ (st = supervisor → 512 ≤ slot → answer .badRequest .nothing)
          ∧ ∀ n : SlotId, st = supervisor → n.val = slot →
            (s.write.isSome = true → answer .busy .nothing)
              ∧ (s.write = none →
                (s.loadState = .ready → ∀ r v, (∀ q u, getRes s q = some u → u.slot = n → r ≤ q) → getRes s r = some v →
                    v.slot = n → answer .inUse (.item (.res r)))
                  ∧ ((s.loadState = .ready → ∀ q u, getRes s q = some u → u.slot ≠ n) →
                    (∀ k, natAt bytes.toList 0 ≠ 0xFF → formCheck bytes.toList = .error k → answer .badRequest (.check k none))
                      ∧ (∀ d k, natAt bytes.toList 0 ≠ 0xFF → formCheck bytes.toList = .ok d → s.loadState = .ready →
                          layoutCheck s d = some k → answer .badRequest (.check k none))
                      ∧ (∀ d m, natAt bytes.toList 0 ≠ 0xFF → formCheck bytes.toList = .ok d → s.loadState = .ready →
                          layoutCheck s d = none → m ≠ n → (tget s.slots m).hasPair d.entrance d.exit = true →
                          (∀ j, j ≠ n → (tget s.slots j).hasPair d.entrance d.exit = true → m ≤ j) →
                          answer .badRequest (.check 16 (some m)))
                      ∧ ((natAt bytes.toList 0 = 0xFF ∨ ∃ d, formCheck bytes.toList = .ok d ∧ (s.loadState = .ready →
                            layoutCheck s d = none ∧ ∀ j, j ≠ n → (tget s.slots j).hasPair d.entrance d.exit = false)) →
                          exec c s = .next (answered st tag 0x65 .accepted .nothing { goodReply st s with
                            write := some ⟨.slot n, .slot n, bytes.toList⟩
                            slots := if s.loadState = .ready then tupd s.slots n fun e => { e with writing := true }
                              else s.slots })))))
    ∧ (∀ (st : StationId) (tag : Byte) (block page : Nat) (bytes : Page) (s : State), Polled st s → s.loadState ≠ .loading →
          let c := Instr.writeConfigBlock st tag block page bytes
          let answer := fun r => exec c s = .next (answered st tag 0x64 r .nothing (goodReply st s))
          (st ≠ supervisor → answer .notPermitted)
            ∧ (st = supervisor → 9 ≤ block → answer .badRequest)
            ∧ ∀ k : Fin 9, st = supervisor → k.val = block →
              ((blockArea k).2 ≤ 64 * page → answer .badRequest)
                ∧ (64 * page < (blockArea k).2 → s.write.isSome = true → answer .busy)
                ∧ (64 * page < (blockArea k).2 → s.write = none →
                    exec c s = .next (answered st tag 0x64 .accepted .nothing
                      { goodReply st s with write := some ⟨.config k page, .config k page, bytes.toList⟩ })))

/-- READ STORE: the checks in their order, ITEM FAILED for a read that the store does not acknowledge, and otherwise the
bytes that the store holds, with a slot's working status, which in NO_IMAGE is ABSENT with cause NOT LOADED. Nothing
changes. -/
def Obligations.ReadStoreReportsTheBytes : Prop :=
  ∀ (st : StationId) (tag : Byte) (what : StoreRead) (acked : Bool) (s : State), Polled st s → LoadSound s →
    let c := Instr.readStore st tag what acked
    let answer := fun r d => exec c s = .next (answered st tag 0x63 r d (goodReply st s))
    let bad := match what with
      | .bytes a len => len < 1 ∨ 64 < len ∨ 0xFFFF < a + len - 1
      | .slot n => 512 ≤ n
    (s.loadState = .loading → answer .notReady (.loadState .loading))
      ∧ (s.loadState ≠ .loading → st ≠ supervisor → answer .notPermitted .nothing)
      ∧ (s.loadState ≠ .loading → st = supervisor →
          (bad → answer .badRequest .nothing)
            ∧ (¬ bad → s.write.isSome = true → answer .busy .nothing)
            ∧ (¬ bad → s.write = none → acked = false → answer .itemFailed (.item .store))
            ∧ (¬ bad → s.write = none → acked = true →
              (∀ a len, what = .bytes a len → answer .done (.bytes (memReads s.store a len)))
                ∧ ∀ n : SlotId, what = .slot n.val →
                  answer .done (.slotBytes (memReads s.store (0x8000 + 64 * n.val) 64)
                    (if s.loadState = .noImage then .absent .notLoaded else (tget s.slots n).status))))
      ∧ ∀ t, exec c s = .next t → SameTables s t

/-! ### What the tables are read as -/

/-- READ SECTION, from any station: the refusals, or the section's fields with whether it is held and the train whose
head is in it. Nothing changes. READ SIGNAL, from any station and without regard to territory: the refusals, or the
signal's fields. Nothing changes. -/
def Obligations.ReadSectionAndReadSignalReport : Prop :=
  (∀ (st : StationId) (tag : Byte) (n : Nat) (s : State), Asks st s →
        let c := Instr.readSection st tag n
        let answer := fun r d => exec c s = .next (answered st tag 0x22 r d (goodReply st s))
        (255 < n → answer .badRequest .nothing)
          ∧ (∀ k : SectionId, k.val = n →
              ((tget s.sections k).cfg = none → answer .noSuchItem (.item (.sec k)))
                ∧ ∀ g, (tget s.sections k).cfg = some g → answer .done (.sec {
                    occ := (tget s.sections k).occ, clearPending := (tget s.sections k).clearTimer.isSome
                    lock := (tget s.sections k).lock, cfg := g
                    held := !((tget s.boards g.board).state == .present && (tget s.districts g.district).state == .normal)
                    head := headIn s k }))
          ∧ ∀ t, exec c s = .next t → SameTables s t)
    ∧ (∀ (st : StationId) (tag : Byte) (n : Nat) (s : State), Asks st s →
          let c := Instr.readSignal st tag n
          let answer := fun r d => exec c s = .next (answered st tag 0x23 r d (goodReply st s))
          (127 < n → answer .badRequest .nothing)
            ∧ (∀ x : SignalId, x.val = n →
                ((tget s.signals x).cfg = none → answer .noSuchItem (.item (.signal x)))
                  ∧ ∀ g, (tget s.signals x).cfg = some g → answer .done (.signal {
                      aspect := (tget s.signals x).aspect, controlled := (tget s.signals x).controlled
                      entranceOf := (tget s.signals x).entranceOf, cfg := g }))
            ∧ ∀ t, exec c s = .next t → SameTables s t)

/-- READ DISTRICT, from any station: the refusals, or the district's fields, the remaining time in units of 100 ms
rounded up (log 7). Nothing changes. READ POINT, from any station and without regard to territory: the refusals, or the
point's fields, with its throw while it is MOVING and its place in the throw queue counted from 1 (remaining times as
log 7 says). Nothing changes. READ RESERVATION, from any station: the refusals, or the reservation's fields with its
definition's ends, the requirement count and the deck hold (remaining times as log 7 says). Nothing changes. READ ROUTES
FROM SIGNAL in both its forms: the refusals, the list form's length with up to 16 entries from the start index on, in
slot order, and the detail form's whole definition. Nothing changes. READ TRAIN and FIND TRAIN, from any station: the
refusals; a record's fields, PLACED being that it has a head, with the live reservations that name the train in
ascending order; and every record whose headcode reads as the one given, in ascending order, NO SUCH ITEM naming no item
where there is none (the model's choice, log 43). The texts of READ TRAIN are given as stored (the model's choice, log
53). Neither changes anything. READ TURNTABLE, from any station: NO SUCH ITEM, or the record, the current move and the
queued moves in queue order with their remaining times (log 7), and the train on the deck with its facing. Nothing
changes. READ BOARD and READ BUTTONS, from any station: the refusals; a line as rendered with its mark, the board's link
state, the length of the list and the announcement at the line, its destination text as stored (the model's choice, log
53); and the open-day flag with the fields of the 8 buttons (remaining times as log 7 says), one that is not configured
showing no kind, no cooldown and its board not PRESENT (the model's choice, log 64). Neither changes anything. -/
def Obligations.TheOtherReadRequestsReport : Prop :=
  (∀ (st : StationId) (tag : Byte) (n : Nat) (s : State), Asks st s →
        let c := Instr.readDistrict st tag n
        let answer := fun r d => exec c s = .next (answered st tag 0x20 r d (goodReply st s))
        (7 < n → answer .badRequest .nothing)
          ∧ (∀ d : DistrictId, d.val = n →
              ((tget s.districts d).cfg = none → answer .noSuchItem (.item (.district d)))
                ∧ ∀ g, (tget s.districts d).cfg = some g → answer .done (.district {
                    state := (tget s.districts d).state, retryCount := (tget s.districts d).retryCount
                    retryTimer := (tget s.districts d).retryTimer.tenths
                    confirmOpen := (tget s.districts d).confirmWindow.isSome, cfg := g
                    cause := (tget s.districts d).cause }))
          ∧ ∀ t, exec c s = .next t → SameTables s t)
    ∧ (∀ (st : StationId) (tag : Byte) (n : Nat) (s : State), Asks st s →
          let c := Instr.readPoint st tag n
          let answer := fun r d => exec c s = .next (answered st tag 0x21 r d (goodReply st s))
          (127 < n → answer .badRequest .nothing)
            ∧ (∀ p : PointId, p.val = n →
                ((tget s.points p).cfg = none → answer .noSuchItem (.item (.point p)))
                  ∧ ∀ g, (tget s.points p).cfg = some g → ∃ v : PointView, answer .done (.point v)
                      ∧ v.state = (tget s.points p).state ∧ v.lock = (tget s.points p).lock
                      ∧ v.lastDetection = (tget s.points p).lastDetection ∧ v.cfg = g
                      ∧ ((tget s.points p).state ≠ .moving → v.throw_ = none)
                      ∧ ((tget s.points p).state = .moving → v.throw_ = some ⟨(tget s.points p).target,
                          (tget s.points p).throwOwner, (tget s.points p).throwTimer.tenths, (tget s.points p).releaseAtEnd⟩)
                      ∧ ((∀ o ∈ s.throwQueue, o.point ≠ p) → v.queued = none)
                      ∧ ∀ (l r : List ThrowOrder) (o : ThrowOrder), s.throwQueue = l ++ o :: r → (∀ x ∈ l, x.point ≠ p) →
                          o.point = p → v.queued = some ⟨o.pos, o.owner, l.length + 1⟩)
            ∧ ∀ t, exec c s = .next t → SameTables s t)
    ∧ (∀ (st : StationId) (tag : Byte) (res : Nat) (s : State), Asks st s →
          let c := Instr.readReservation st tag res
          let answer := fun r d => exec c s = .next (answered st tag 0x12 r d (goodReply st s))
          (63 < res → answer .badRequest .nothing)
            ∧ (∀ r : ResId, r.val = res →
                (getRes s r = none → answer .noSuchItem (.item (.res r)))
                  ∧ ∀ v d, resDef s r = some (v, d) → answer .done (.reservation {
                      slot := v.slot, entrance := some d.entrance, exit := some d.exit, owner := v.owner, train := v.train
                      state := v.state, hasBeenOpen := v.hasBeenOpen, releaseOrigin := v.releaseOrigin
                      settingCursor := v.settingCursor
                      requirementCount := d.path.length + if v.overlapReleased then 0 else d.overlap.length
                      releaseCursor := v.releaseCursor, overlapReleased := v.overlapReleased
                      deckHold := if s.tt.deckLock = .promised r then .promised
                        else if s.tt.deckLock = .held r then .held else .free
                      approachTimer := v.approachTimer.tenths, overlapTimer := v.overlapTimer.tenths
                      emergencyTimer := v.emergencyTimer.tenths, demoHold := v.demoHold.tenths, fault := v.fault }))
            ∧ ∀ t, exec c s = .next t → SameTables s t)
    ∧ (∀ (st : StationId) (tag : Byte) (form : RoutesForm) (s : State), Polled st s →
          let c := Instr.readRoutesFromSignal st tag form
          let answer := fun r d => exec c s = .next (answered st tag 0x13 r d (goodReply st s))
          let slotsFrom := fun x : SignalId => (List.finRange 512).filter fun k => (slotDef s k).map (·.entrance) == some x
          (s.loadState ≠ .ready → answer .notReady (.loadState s.loadState))
            ∧ (s.loadState = .ready →
              (∀ n start, form = .list n start → 127 < n → answer .badRequest .nothing)
                ∧ (∀ n k, form = .detail n k → 127 < n ∨ 511 < k → answer .badRequest .nothing)
                ∧ (∀ (x : SignalId) start, form = .list x.val start → (tget s.signals x).cfg = none →
                    answer .noSuchItem (.item (.signal x)))
                ∧ (∀ (x : SignalId) (k : SlotId), form = .detail x.val k.val → (tget s.signals x).cfg = none →
                    answer .noSuchItem (.item (.signal x)))
                ∧ (∀ (x : SignalId) start, form = .list x.val start → (tget s.signals x).cfg ≠ none → ∃ es,
                    answer .done (.routes (slotsFrom x).length es) ∧ es.length = min 16 ((slotsFrom x).length - start)
                      ∧ ∀ i k, i < 16 → (slotsFrom x)[start + i]? = some k → ∃ d, slotDef s k = some d ∧ es[i]? = some {
                          slot := k, exit := d.exit, cls := d.cls, pathCount := d.path.length, overlapCount := d.overlap.length
                          writing := (tget s.slots k).writing, usedBy := slotUser s k })
                ∧ ∀ (x : SignalId) (k : SlotId), form = .detail x.val k.val → (tget s.signals x).cfg ≠ none →
                    ((k ∉ slotsFrom x) → answer .noSuchRoute .nothing)
                      ∧ ∀ d, slotDef s k = some d → d.entrance = x →
                        answer .done (.route d (tget s.slots k).writing (slotUser s k)))
            ∧ ∀ t, exec c s = .next t → SameTables s t)
    ∧ (∀ (st : StationId) (tag : Byte) (s : State), Asks st s →
          let shownAs := fun h : Headcode => h.toList.map shown
          (∀ handle, 47 < handle →
              exec (.readTrain st tag handle) s = .next (answered st tag 0x36 .badRequest .nothing (goodReply st s)))
            ∧ (∀ h : TrainId, tget s.trains h = none →
                exec (.readTrain st tag h.val) s = .next (answered st tag 0x36 .noSuchItem (.item (.train h)) (goodReply st s)))
            ∧ (∀ (h : TrainId) v, tget s.trains h = some v →
                exec (.readTrain st tag h.val) s = .next (answered st tag 0x36 .done
                  (.train v ((List.finRange 64).filter fun r => (getRes s r).bind (·.train) == some h)) (goodReply st s)))
            ∧ (∀ headcode, (∀ t v, tget s.trains t = some v → shownAs v.headcode ≠ shownAs headcode) →
                exec (.findTrain st tag headcode) s = .next (answered st tag 0x33 .noSuchItem .nothing (goodReply st s)))
            ∧ (∀ headcode t v, tget s.trains t = some v → shownAs v.headcode = shownAs headcode →
                exec (.findTrain st tag headcode) s = .next (answered st tag 0x33 .done
                  (.trains ((List.finRange 48).filterMap fun t => (tget s.trains t).bind fun v =>
                    if shownAs v.headcode = shownAs headcode then some ⟨t, v.head, v.lost, v.passed⟩ else none)) (goodReply st s)))
            ∧ ∀ c t, (∃ handle, c = .readTrain st tag handle) ∨ (∃ headcode, c = .findTrain st tag headcode) →
                exec c s = .next t → SameTables s t)
    ∧ (∀ (st : StationId) (tag : Byte) (s : State), Asks st s → HeadsSound s →
          let c := Instr.readTurntable st tag
          let seen := fun (m : Move) (t : Option Nat) =>
            ({ number := m.number, kind := m.kind, target := m.target, relative := m.relative, remaining := t } : MoveView)
          (s.tt.cfg = none → exec c s = .next (answered st tag 0x40 .noSuchItem (.item .turntable) (goodReply st s)))
            ∧ (∀ g, s.tt.cfg = some g → ∃ v : TurntableView,
                exec c s = .next (answered st tag 0x40 .done (.turntable v) (goodReply st s))
                  ∧ v.state = s.tt.state ∧ v.phase = s.tt.phase
                  ∧ v.stepsCounted = (if s.tt.state = .homing then some s.tt.stepsCounted else none)
                  ∧ v.position = s.tt.position ∧ v.lastPosition = s.tt.lastPosition ∧ v.deckLock = s.tt.deckLock
                  ∧ v.interrupted = s.tt.interrupted
                  ∧ v.current = s.tt.current.map (fun m => seen m s.tt.stageTimer.tenths)
                  ∧ v.queue = s.tt.queue.map (fun m => seen m m.waitTimer.tenths)
                  ∧ (NoHead s g.deck → v.train = none ∧ v.facing = none)
                  ∧ ∀ t w, tget s.trains t = some w → w.head = some g.deck → v.train = some t ∧ v.facing = w.facing)
            ∧ ∀ t, exec c s = .next t → SameTables s t)
    ∧ (∀ (st : StationId) (tag : Byte) (s : State), Asks st s →
          let asked := fun b l => exec (.readBoard st tag b l) s
          let answer := fun r d => Host.Outcome.next (answered st tag 0x52 r d (goodReply st s))
          (∀ b l, 3 < b ∨ 7 < l → asked b l = answer .badRequest .nothing)
            ∧ (∀ (b : DepBoardId) (l : LineNo), (tget s.depBoards b).addr = none →
                asked b.val l.val = answer .noSuchItem (.item (.depBoard b)))
            ∧ (∀ (b : DepBoardId) (l : LineNo) y, (tget s.depBoards b).addr = some y → ∃ v,
                asked b.val l.val = answer .done (.board (tget (tget s.depBoards b).lines l)
                  (decide ((tget s.boards y).state = .present)) (tget s.depBoards b).list.length v)
                ∧ ((tget s.depBoards b).list.length ≤ l.val → v = none)
                ∧ ∀ n a, (tget s.depBoards b).list[l.val]? = some n → tget s.announcements n = some a →
                    v = some ⟨n, a.train, a.signal, a.state, a.source, a.dest, a.linger.tenths⟩)
            ∧ (∃ l, exec (.readButtons st tag) s = .next (answered st tag 0x53 .done (.buttons s.openDay l) (goodReply st s))
                ∧ l.length = 8 ∧ ∀ b : ButtonId, ∃ v, l[b.val]? = some v
                  ∧ v.kind = (tget s.buttons b).cfg.map (·.kind) ∧ v.cooldown = (tget s.buttons b).cfg.map (·.cooldown)
                  ∧ v.state = (tget s.buttons b).state ∧ v.busyWith = (tget s.buttons b).busyWith
                  ∧ v.lamp = (tget s.buttons b).lampTimer.tenths ∧ v.rest = (tget s.buttons b).cooldownTimer.tenths
                  ∧ (v.boardPresent = true ↔ ∃ g, (tget s.buttons b).cfg = some g ∧ (tget s.boards g.board).state = .present))
            ∧ ∀ c t, (∃ b l, c = .readBoard st tag b l) ∨ c = .readButtons st tag → exec c s = .next t → SameTables s t)

/-! ### Sections, districts and points -/

/-- Detector reports: discarded before READY, of an absent section and of a held one. OCCUPIED takes effect at once and
stops a clear delay, a new occupancy or a re-detection being handed on; CLEAR starts the clear delay of a section that
is not CLEAR, and never restarts it. Detection reports: each is recorded; a point at rest follows the table of R27,
entering FAILED or UNKNOWN with the POINT event, and a FAILED point stays so; a MOVING point whose target is shown ends
its throw there, with no throw left and its drive IDLE; and a start is then considered. -/
def Obligations.DetectorAndDetectionReportsAreTaken : Prop :=
  (∀ (n : SectionId) (active : Bool) (s : State),
        let e := tget s.sections n
        let free := ∃ g, e.cfg = some g ∧ s.loadState = .ready ∧ (tget s.boards g.board).state = .present
          ∧ (tget s.districts g.district).state = .normal
        let seen := { s with sections := tput s.sections n { e with occ := .occupied, clearTimer := none } }
        (¬ free → detectorReport n active s = s)
          ∧ (free → active = true →
            (tget (detectorReport n true s).sections n).clearTimer = none
              ∧ (e.occ ≠ .clear ∨ (∀ x c, (tget s.signals x).cfg = some c → c.firstBeyond ≠ n) →
                  (tget (detectorReport n true s).sections n).occ = .occupied)
              ∧ (e.occ = .occupied → detectorReport n true s = seen)
              ∧ (e.occ = .unknown → detectorReport n true s = sectionChanged n .occupied e.lock seen)
              ∧ (e.occ = .clear → detectorReport n true s = newOccupancy n e.lock seen)
              ∧ ∀ m, m ≠ n → (e.occ ≠ .clear → (tget (detectorReport n true s).sections m).occ = (tget s.sections m).occ))
          ∧ (free → active = false → detectorReport n false s
              = if e.occ = .clear ∨ e.clearTimer ≠ none then s
                else { s with sections := tput s.sections n { e with clearTimer := some s.timing.clearDelay } }))
    ∧ (∀ (a : BoardIdx) (c : Channel) (k : Contacts) (p : PointId) (g : PointCfg) (s : State), AllSound s →
          (tget s.points p).cfg = some g → g.board = a → g.channel = c → s.loadState = .ready →
          let e := tget s.points p
          let t := detectionReport a c k s
          let value := if k.normalMade = true then (if k.reverseMade = true then Detection.both else .normal)
            else if k.reverseMade = true then .reverse else .none
          let at_ := tget t.points p
          at_.lastDetection = some value ∧ at_.cfg = e.cfg
            ∧ (e.state = .normal → at_.state = if value = .normal then .normal else .failed)
            ∧ (e.state = .reverse → at_.state = if value = .reverse then .reverse else .failed)
            ∧ (e.state = .unknown → at_.state = match value with
                | .normal => .normal
                | .reverse => .reverse
                | .none => .unknown
                | .both => .failed)
            ∧ (e.state = .failed → t = { s with points := tput s.points p { e with lastDetection := some value } })
            ∧ (e.state ≠ .moving → e.state ≠ .failed → at_.state = .failed → PointTold s t p)
            ∧ ∀ x, e.state = .moving → e.target = some x →
              let shown := (x = .normal ∧ value = .normal) ∨ (x = .reverse ∧ value = .reverse)
              (shown → at_.state = posState x ∧ at_.target = none ∧ at_.throwOwner = none ∧ at_.throwTimer = none
                  ∧ tget (tget t.boards a).image.drives c = .idle ∧ (e.throwOwner = none → PointTold s t p) ∧ StartConsidered t)
                ∧ (¬ shown → t = { s with points := tput s.points p { e with lastDetection := some value } }))

/-- The clear-delay timer of a section expires: clear pending is no, the section is CLEAR, and the change is handed on
with the lock as it stood. No other section's occupancy changes. A stopped timer does not expire. -/
def Obligations.AClearDelayExpiryClearsTheSection : Prop :=
  ∀ (n : SectionId) (s : State), s.resetHeld = false → SectionsSound s →
    ((tget s.sections n).clearTimer = none → exec (.clearDelayExpiry n) s = .next s)
      ∧ ((tget s.sections n).clearTimer ≠ none → ∃ t, exec (.clearDelayExpiry n) s = .next t
          ∧ (tget t.sections n).occ = .clear ∧ (tget t.sections n).clearTimer = none
          ∧ t = sectionChanged n .clear (tget s.sections n).lock
              { s with sections := tupd s.sections n fun e => { e with occ := .clear, clearTimer := none } }
          ∧ ∀ m, m ≠ n → (tget t.sections m).occ = (tget s.sections m).occ
              ∧ (tget t.sections m).clearTimer = (tget s.sections m).clearTimer)

/-- THROW POINT: the checks in their order, DONE where the point already stands so, QUEUE FULL, and otherwise ACCEPTED
with an order of no owner appended. An order that is appended joins the tail of the queue where a start is not possible;
alone in the queue, with fewer than 2 throws in motion and the recharge timer stopped, it starts at once if its owner is
a reservation or its section is CLEAR and not locked: the point is MOVING with the order's position and owner, its throw
timer and the recharge timer run, and its drive is set. A refused append changes nothing. At the recharge timer's expiry
a start is considered: a reservation's order at the head starts, and so does an order of no owner whose section is CLEAR
and not locked; one whose section is not is dropped with the POINT event, and the next is considered. With 2 throws in
motion, or no order, only the timer stops. -/
def Obligations.ThrowsAreOrderedAndStartOneByOne : Prop :=
  (∀ (st : StationId) (tag : Byte) (n : Nat) (pos : Option PointPos) (s : State), Asks st s →
        let c := Instr.throwPoint st tag n pos
        let answer := fun r d => exec c s = .next (answered st tag 0x25 r d (goodReply st s))
        (127 < n ∨ pos = none → answer .badRequest .nothing)
          ∧ ∀ (p : PointId) (x : PointPos), p.val = n → pos = some x →
            ((tget s.points p).cfg = none → answer .noSuchItem (.item (.point p)))
              ∧ ∀ g, (tget s.points p).cfg = some g →
                let e := tget s.points p
                let allowed := st = supervisor ∨ (tget s.stations st).territory.point p = true
                let idle := e.state ≠ .moving ∧ ∀ o ∈ s.throwQueue, o.point ≠ p
                let served := (tget s.boards g.board).state = .present
                (¬ allowed → RefusedOutOfTerritory c s st tag 0x25 (.point p))
                  ∧ (allowed → e.lock ≠ .free → answer .locked (.item (.point p)))
                  ∧ (allowed → e.lock = .free → ¬ idle → answer .pointBusy (.item (.point p)))
                  ∧ (allowed → e.lock = .free → idle → ¬ served → answer .itemFailed (.item (.point p)))
                  ∧ (allowed → e.lock = .free → idle → served →
                      ∀ l, (tget s.sections g.sec).lock = some l → answer .conflict (.item (.res l.res)))
                  ∧ (allowed → e.lock = .free → idle → served → (tget s.sections g.sec).lock = none →
                      ((tget s.sections g.sec).occ ≠ .clear → answer .occupied (.item (.sec g.sec)))
                        ∧ ((tget s.sections g.sec).occ = .clear →
                            (e.state = posState x → answer .done .nothing)
                              ∧ (e.state ≠ posState x → 32 ≤ s.throwQueue.length →
                                  answer .queueFull (.item .throwQueue))
                              ∧ (e.state ≠ posState x → s.throwQueue.length < 32 →
                                  exec c s = .next (answered st tag 0x25 .accepted .nothing
                                    (appendOrder ⟨p, x, none⟩ (goodReply st s)))))))
    ∧ (∀ (o : ThrowOrder) (s : State),
          let e := tget s.points o.point
          let refused := 32 ≤ s.throwQueue.length ∨ (∃ q ∈ s.throwQueue, q.point = o.point) ∨ e.state = .moving
          let t := appendOrder o s
          (refused → t = s)
            ∧ (¬ refused → 2 ≤ throwsInMotion s ∨ s.rechargeTimer ≠ none → t = { s with throwQueue := s.throwQueue ++ [o] })
            ∧ (¬ refused → s.throwQueue = [] → throwsInMotion s < 2 → s.rechargeTimer = none → ∀ g, e.cfg = some g →
                (o.owner ≠ none ∨ ((tget s.sections g.sec).occ = .clear ∧ (tget s.sections g.sec).lock = none)) →
                t.throwQueue = [] ∧ t.rechargeTimer = some s.timing.rechargeGap
                  ∧ tget t.points o.point = { e with
                      state := .moving, target := some o.pos, throwOwner := o.owner, releaseAtEnd := false
                      throwTimer := some s.timing.throwTime }
                  ∧ (∀ q, q ≠ o.point → tget t.points q = tget s.points q)
                  ∧ tget (tget t.boards g.board).image.drives g.channel = posDrive o.pos
                  ∧ t.sections = s.sections ∧ t.districts = s.districts ∧ t.trains = s.trains ∧ t.tt = s.tt))
    ∧ (∀ s : State, s.resetHeld = false →
          (s.rechargeTimer = none → exec .rechargeExpiry s = .next s)
            ∧ (s.rechargeTimer ≠ none → s.throwQueue = [] ∨ 2 ≤ throwsInMotion s →
                exec .rechargeExpiry s = .next { s with rechargeTimer := none })
            ∧ (s.rechargeTimer ≠ none → throwsInMotion s < 2 → ∀ o rest g, s.throwQueue = o :: rest →
                (tget s.points o.point).cfg = some g →
                let free := (tget s.sections g.sec).occ = .clear ∧ (tget s.sections g.sec).lock = none
                (o.owner ≠ none ∨ free → ∃ t, exec .rechargeExpiry s = .next t ∧ t.throwQueue = rest
                  ∧ t.rechargeTimer = some s.timing.rechargeGap
                  ∧ tget t.points o.point = { tget s.points o.point with
                      state := .moving, target := some o.pos, throwOwner := o.owner, releaseAtEnd := false
                      throwTimer := some s.timing.throwTime }
                  ∧ (∀ q, q ≠ o.point → tget t.points q = tget s.points q)
                  ∧ tget (tget t.boards g.board).image.drives g.channel = posDrive o.pos
                  ∧ t.sections = s.sections ∧ t.districts = s.districts ∧ t.trains = s.trains ∧ t.tt = s.tt)
                ∧ (o.owner = none → ¬ free →
                    exec .rechargeExpiry s = exec .rechargeExpiry (pointEvent o.point { s with throwQueue := rest }))))

/-- The throw timer of a MOVING point expires: the throw ends FAILED. The point is FAILED with target and owner none,
its drive is IDLE, a DISOWNED lock goes, the POINT event is set, and a start is considered; the other throws in motion
run on. A timer that does not run does not expire. -/
def Obligations.AThrowThatTimesOutFails : Prop :=
  ∀ (p : PointId) (s : State), s.resetHeld = false → ThrowsSound s → ChannelsDistinct s →
    ((tget s.points p).state ≠ .moving → exec (.throwTimerExpiry p) s = .next s)
      ∧ ((tget s.points p).state = .moving → ∃ t, exec (.throwTimerExpiry p) s = .next t
          ∧ (tget t.points p).state = .failed ∧ (tget t.points p).target = none ∧ (tget t.points p).throwOwner = none
          ∧ (tget t.points p).throwTimer = none ∧ (tget t.points p).releaseAtEnd = false
          ∧ ((tget s.points p).lock = .disowned → (tget t.points p).lock = .free)
          ∧ (∀ g, (tget s.points p).cfg = some g → tget (tget t.boards g.board).image.drives g.channel = .idle)
          ∧ PointTold s t p ∧ StartConsidered t
          ∧ ∀ q, q ≠ p → (tget s.points q).state = .moving → (tget t.points q).state = .moving
              ∧ (tget t.points q).target = (tget s.points q).target
              ∧ (tget t.points q).throwTimer = (tget s.points q).throwTimer)

/-- A fault taken in NORMAL: TRIPPED with the count unchanged, which is 0, the booster off, the retry timer at 5 s, the
DISTRICT event set for every station, and the district's sections held. No other district changes. -/
def Obligations.AFaultInNormalTripsTheDistrict : Prop :=
  ∀ (d : DistrictId) (s : State), s.resetHeld = false → DistrictsSound s → (tget s.districts d).state = .normal →
    (tget s.districts d).faultFilter ≠ none → ∃ t, exec (.faultFilterExpiry d) s = .next t
      ∧ tget t.districts d = { tget s.districts d with state := .tripped, retryTimer := some 5000, faultFilter := none }
      ∧ (tget t.districts d).retryCount = 0 ∧ (∀ e, e ≠ d → tget t.districts e = tget s.districts e)
      ∧ (∀ g, (tget s.districts d).cfg = some g → tget (tget t.boards g.board).image.enables g.channel = false)
      ∧ AllTold s t .district
      ∧ (∀ n g, (tget s.sections n).cfg = some g → g.district = d → cfgHeld t g = true
          ∧ (boardPresent s g.board = true → (tget t.sections n).occ = .unknown ∧ (tget t.sections n).clearTimer = none))
      ∧ ∀ n g, (tget s.sections n).cfg = some g → g.district ≠ d → (tget t.sections n).occ = (tget s.sections n).occ
          ∧ (tget t.sections n).clearTimer = (tget s.sections n).clearTimer

/-- The retry timer's expiry turns the booster on and opens the confirm window for 1 s; the district stays as it is, and
nothing else changes. A stopped timer does not expire. A confirm window that expires makes the district NORMAL with
count 0, sets the DISTRICT event for every station, and leaves the boosters and every section's occupancy as they stand.
A closed window does not expire. A fault taken with the confirm window open closes it, turns the booster off and counts
a failed retry: the third locks the district out with its retry timer stopped and the DISTRICT event set, and an earlier
one starts the retry timer at 5 s with no event. A fault filter that is stopped does not expire. RESTORE DISTRICT: the
checks in their order; a LOCKED_OUT or CUT district is answered DONE with count 0 and no cause, NORMAL with its booster
on where its board is PRESENT and TRIPPED with its retry timer stopped where not, and the DISTRICT event is set for
every station. -/
def Obligations.ATrippedDistrictIsTriedAndRestored : Prop :=
  (∀ (d : DistrictId) (s : State), s.resetHeld = false →
        ((tget s.districts d).retryTimer = none → exec (.retryTimerExpiry d) s = .next s)
          ∧ ((tget s.districts d).retryTimer ≠ none → ∃ t, exec (.retryTimerExpiry d) s = .next t
              ∧ t.districts = (tupd s.districts d fun e => { e with retryTimer := none, confirmWindow := some 1000 })
              ∧ (∀ g, (tget s.districts d).cfg = some g → tget (tget t.boards g.board).image.enables g.channel = true)
              ∧ t = { s with districts := t.districts, boards := t.boards }))
    ∧ (∀ (d : DistrictId) (s : State), s.resetHeld = false →
          ((tget s.districts d).confirmWindow = none → exec (.confirmWindowExpiry d) s = .next s)
            ∧ ((tget s.districts d).confirmWindow ≠ none → ∃ t, exec (.confirmWindowExpiry d) s = .next t
                ∧ t.districts = (tupd s.districts d fun e =>
                    { e with state := .normal, retryCount := 0, retryTimer := none, confirmWindow := none })
                ∧ AllTold s t .district ∧ t.sections = s.sections ∧ t.points = s.points ∧ t.trains = s.trains ∧ t.tt = s.tt
                ∧ ∀ a c, tget (tget t.boards a).image.enables c = tget (tget s.boards a).image.enables c))
    ∧ (∀ (d : DistrictId) (s : State), s.resetHeld = false →
          ((tget s.districts d).faultFilter = none → exec (.faultFilterExpiry d) s = .next s)
            ∧ ((tget s.districts d).faultFilter ≠ none → (tget s.districts d).state = .tripped →
                (tget s.districts d).confirmWindow ≠ none → ∃ t, exec (.faultFilterExpiry d) s = .next t
                  ∧ (∀ e, e ≠ d → tget t.districts e = tget s.districts e)
                  ∧ (∀ g, (tget s.districts d).cfg = some g → tget (tget t.boards g.board).image.enables g.channel = false)
                  ∧ (∀ n, (tget t.sections n).occ = (tget s.sections n).occ
                      ∧ (tget t.sections n).clearTimer = (tget s.sections n).clearTimer)
                  ∧ ((tget s.districts d).retryCount = 2 → AllTold s t .district ∧ tget t.districts d = { tget s.districts d with
                      state := .lockedOut, retryCount := 3, retryTimer := none, confirmWindow := none, faultFilter := none })
                  ∧ ((tget s.districts d).retryCount ≠ 2 → t.stations = s.stations ∧ tget t.districts d = { tget s.districts d with
                      retryCount := (tget s.districts d).retryCount + 1, retryTimer := some 5000, confirmWindow := none
                      faultFilter := none })))
    ∧ (∀ (st : StationId) (tag : Byte) (n : Nat) (s : State), Asks st s →
          let c := Instr.restoreDistrict st tag n
          let answer := fun r d => exec c s = .next (answered st tag 0x24 r d (goodReply st s))
          (st ≠ supervisor → answer .notPermitted .nothing)
            ∧ (st = supervisor → 7 < n → answer .badRequest .nothing)
            ∧ ∀ d : DistrictId, st = supervisor → d.val = n →
              ((tget s.districts d).cfg = none → answer .noSuchItem (.item (.district d)))
                ∧ ∀ g, (tget s.districts d).cfg = some g →
                  ((tget s.districts d).state ≠ .lockedOut → (tget s.districts d).state ≠ .cut →
                      answer .wrongState (.found (.district (tget s.districts d).state)))
                    ∧ ((tget s.districts d).state = .lockedOut ∨ (tget s.districts d).state = .cut → ∃ u,
                        exec c s = .next (answered st tag 0x24 .done .nothing u)
                          ∧ u.districts = (tupd s.districts d fun e => { e with
                              state := if boardPresent s g.board then .normal else .tripped, retryCount := 0, cause := none
                              retryTimer := none, confirmWindow := none, faultFilter := none })
                          ∧ (boardPresent s g.board = true → tget (tget u.boards g.board).image.enables g.channel = true)
                          ∧ AllTold s u .district ∧ u.sections = s.sections ∧ u.points = s.points ∧ u.trains = s.trains
                          ∧ u.tt = s.tt ∧ fixed u = fixed s))

/-! ### What new occupancies do -/

/-- A new occupancy, CLEAR to OCCUPIED, is taken for the signals whose first-beyond section it is: an OPEN reservation
goes TRAVERSED with its signal at DANGER, and an APPROACH_HELD one too, or is retired at once if its locks were dropped;
its owner hears, and the train of an entered reservation departs on the boards of its signal. A reservation in SETTING
or PROVED stays so. The overlap timer of every reservation that is being released, whose last path element it is and
whose overlap is not released, starts unless it runs. No other reservation changes its state but between PROVED and
OPEN, or by its release. -/
def Obligations.ANewOccupancyEntersTheRoutesItIsTakenFor : Prop :=
  ∀ (n : SectionId) (s : State), AllSound s → Watched s n → (tget s.sections n).occ = .clear →
    let t := detectorReport n true s
    let lock := (tget s.sections n).lock
    let taken := fun r => ∃ x, TakenFor (occupiedNow n s) n lock x ∧ (tget s.signals x).entranceOf = some r
    (∀ r v d, resDef s r = some (v, d) → taken r → v.state = .opened ∨ v.state = .approachHeld ∧ v.releaseCursor = 0 →
        (∃ w : Reservation, getRes t r = some { v with
            state := .traversed, approachTimer := none, demoHold := none, overlapTimer := w.overlapTimer, train := w.train }
          ∧ ∀ k a h, w.train = some h → tget s.announcements k = some a → a.signal = d.entrance → a.train = some h →
            a.state = .waiting ∨ a.state = .ready →
              tget t.announcements k = some { a with state := .departed, linger := some s.timing.lingerTime }
                ∧ AnnounceTold s t a.board)
          ∧ (tget t.signals d.entrance).aspect = .danger ∧ OwnerTold s t v.owner .route)
      ∧ (∀ r v d, resDef s r = some (v, d) → taken r → v.state = .approachHeld → v.releaseCursor ≠ 0 → RetiredAndTold s t r v d)
      ∧ (∀ r v d, resDef s r = some (v, d) → taken r → v.state = .setting ∨ v.state = .proved →
          ∃ w, getRes t r = some w ∧ w.state = v.state)
      ∧ (∀ r w f, resDef t r = some (w, f) → w.releases = true → w.overlapReleased = false →
          (f.path.getLast?.map (·.sec) = some n → ∀ v, getRes s r = some v →
              w.overlapTimer = some (v.overlapTimer.getD s.timing.overlapTime))
            ∧ (f.path.getLast?.map (·.sec) ≠ some n → ∀ v, getRes s r = some v → w.overlapTimer = v.overlapTimer))
      ∧ ∀ r v, getRes s r = some v → ¬ (taken r ∧ (v.state = .opened ∨ v.state = .approachHeld)) →
        getRes t r = none ∧ (v.releases = true ∨ v.state = .cancelling)
          ∨ ∃ w, getRes t r = some w ∧ (w.state = v.state
            ∨ (v.state = .proved ∨ v.state = .opened) ∧ (w.state = .proved ∨ w.state = .opened))

/-- A new occupancy taken for a signal whose reservation is not OPEN is a signal passed at danger: every station has the
PASSED AT DANGER and the DISTRICT events, the section's district is CUT with the lowest such signal as its cause, its
booster is off, and its sections are held. Without one, no district and no other section's occupancy changes. -/
def Obligations.APassingAtDangerCutsTheDistrict : Prop :=
  ∀ (n : SectionId) (s : State) (g : SectionCfg), AllSound s → Watched s n → (tget s.sections n).occ = .clear →
    (tget s.sections n).cfg = some g →
    let t := detectorReport n true s
    let passes := PassesAt (occupiedNow n s) n (tget s.sections n).lock
    (∀ m c, (tget s.sections m).cfg = some c → c.district ≠ g.district →
        (tget t.sections m).occ = (tget s.sections m).occ ∧ (tget t.sections m).clearTimer = (tget s.sections m).clearTimer)
      ∧ (∀ d, d ≠ g.district → tget t.districts d = tget s.districts d)
      ∧ ((∀ x, ¬ passes x) → t.districts = s.districts ∧ (tget t.sections n).occ = .occupied
        ∧ (∀ m, m ≠ n → (tget t.sections m).occ = (tget s.sections m).occ
            ∧ (tget t.sections m).clearTimer = (tget s.sections m).clearTimer)
        ∧ ∀ y, hasFlag t y .passedAtDanger = hasFlag s y .passedAtDanger)
      ∧ ∀ x, passes x → (∀ y, passes y → x ≤ y) → AllTold s t .passedAtDanger ∧ AllTold s t .district
        ∧ tget t.districts g.district = { tget s.districts g.district with
            state := .cut, cause := some x, retryCount := 0, retryTimer := none, confirmWindow := none, faultFilter := none }
        ∧ (∀ c, (tget s.districts g.district).cfg = some c → tget (tget t.boards c.board).image.enables c.channel = false)
        ∧ ∀ m c, (tget s.sections m).cfg = some c → c.district = g.district → boardPresent s c.board = true →
            (tget t.sections m).occ = .unknown ∧ (tget t.sections m).clearTimer = none

/-- A section goes CLEAR, or OCCUPIED: every reservation that is being released has its elements released from the
release cursor on, up to the first that is not releasable, each with its section, its point and the deck; the rest keep
their locks; and one whose last element is released is retired. -/
def Obligations.ASectionChangeReleasesTheRouteBehindATrain : Prop :=
  ∀ (n : SectionId) (s t : State) (x : Occupancy) (r : ResId) (v : Reservation) (d : RouteDef) (c : Nat), AllSound s →
    ((x = .clear ∧ s.resetHeld = false ∧ (tget s.sections n).clearTimer ≠ none ∧ exec (.clearDelayExpiry n) s = .next t)
      ∨ (x = .occupied ∧ Watched s n ∧ (tget s.sections n).occ ≠ .occupied ∧ t = detectorReport n true s)) →
    resDef s r = some (v, d) → v.releases = true → v.releaseCursor ≤ c → c ≤ d.path.length →
    let occ := fun m => if m = n then x else (tget s.sections m).occ
    (∀ k, v.releaseCursor ≤ k → k < c → Releasable occ d k) → ¬ Releasable occ d c →
      (c = d.path.length → RetiredAndTold s t r v d)
        ∧ (c < d.path.length → (∃ w, getRes t r = some w ∧ w.state = v.state ∧ w.releaseCursor = c
            ∧ w.overlapReleased = v.overlapReleased)
          ∧ (∀ k e, d.path[k]? = some e → k < c → v.releaseCursor ≤ k → (tget t.sections e.sec).lock = none
              ∧ (∀ q ∈ e.point, (tget t.points q.point).lock ≠ .res r) ∧ (e.deck ≠ none → t.tt.deckLock.holder ≠ some r))
          ∧ ∀ k e, d.path[k]? = some e → c ≤ k → (tget t.sections e.sec).lock = some ⟨r, .path k⟩
              ∧ ∀ q ∈ e.point, (tget t.points q.point).lock = .res r)

/-- A new occupancy moves a train: where its predecessor holds a train's head and it holds none, that train steps into
it, with LOST cleared, no facing or the facing that the deck's position gives, and, over path element 0, its name in the
reservation. Where both hold a head nothing moves, the TRAIN event is set for the supervisor and the owner of the
reservation locking the section; and where it holds a head and no train comes, that train is found. A passing at danger
marks the train concerned. An ambiguous arrival sets the supervisor's TRAIN event, also where a train is found (the
model's choice, log 51). A berth that two signals into the section share counts once (the model's reading, log 34), and
the berths and their occupancies are read before the cut of a passing at danger (the model's reading, log 19). A section
that holds a train's head goes CLEAR: over the last path element of a route to BOUNDARY the train leaves the layout;
otherwise it is LOST, unless it is already; either sets the TRAIN event for the supervisor and the owner of the
reservation locking the section. No other train changes. -/
def Obligations.ASectionChangeMovesOrLosesATrain : Prop :=
  (∀ (n : SectionId) (s : State), AllSound s → Watched s n → (tget s.sections n).occ = .clear →
        let t := detectorReport n true s
        let u := occupiedNow n s
        let lock := (tget s.sections n).lock
        let passed := fun w : Train => { w with passed := true }
        let marked := fun (h : TrainId) (v : Train) => ((∃ x, PassesAt u n lock x) → tget t.trains h = some (passed v))
          ∧ ((∀ x, ¬ PassesAt u n lock x) → tget t.trains h = some v)
        (∀ h p v, ComesFrom u n lock h p → NoHead s n → tget s.trains h = some v →
            (∃ f, marked h { v with head := some n, lost := false, facing := f }
              ∧ (deckSection s ≠ some n → f = none)
              ∧ (deckSection s = some n → ∀ g, s.tt.cfg = some g →
                (∀ j, tget g.roads j = some p → (∀ i, tget g.roads i = some p → i = j) →
                    (s.tt.position = some j → f = some .b) ∧ (s.tt.position = some (opposite j) → f = some .a)
                      ∧ (s.tt.position ≠ some j → s.tt.position ≠ some (opposite j) →
                          f = none ∧ hasFlag t supervisor .train = true))
                  ∧ ((∀ j, tget g.roads j ≠ some p) → f = none ∧ hasFlag t supervisor .train = true)))
              ∧ (∀ k, k ≠ h → tget t.trains k = tget s.trains k)
              ∧ ∀ r w, getRes t r = some w → (lock = some ⟨r, .path 0⟩ → w.train = some h)
                ∧ (lock ≠ some ⟨r, .path 0⟩ → ∀ y, getRes s r = some y → w.train = y.train))
          ∧ (∀ h p k v, ComesFrom u n lock h p → IsHead s n k → k ≠ h → tget s.trains h = some v → marked h v
              ∧ (∀ i, i ≠ h → tget t.trains i = tget s.trains i) ∧ hasFlag t supervisor .train = true
              ∧ ∀ l w, lock = some l → getRes s l.res = some w → OwnerTold s t w.owner .train)
          ∧ (∀ k v, (∀ h p, ¬ ComesFrom u n lock h p) → IsHead s n k → tget s.trains k = some v →
              marked k { v with lost := false } ∧ ∀ i, i ≠ k → tget t.trains i = tget s.trains i)
          ∧ ((∀ h p, ¬ ComesFrom u n lock h p) → NoHead s n → t.trains = s.trains)
          ∧ (Ambiguous u n lock → hasFlag t supervisor .train = true))
    ∧ (∀ (n : SectionId) (s t : State), AllSound s → s.resetHeld = false → (tget s.sections n).clearTimer ≠ none →
          exec (.clearDelayExpiry n) s = .next t →
          let leaves := ∃ r k v d, (tget s.sections n).lock = some ⟨r, .path k⟩ ∧ resDef s r = some (v, d) ∧ d.exit = .boundary
            ∧ k + 1 = d.path.length
          let told := hasFlag t supervisor .train = true
            ∧ ∀ l v, (tget s.sections n).lock = some l → getRes s l.res = some v → OwnerTold s t v.owner .train
          (NoHead s n → t.trains = s.trains)
            ∧ ∀ h v, tget s.trains h = some v → v.head = some n → (∀ k, k ≠ h → tget t.trains k = tget s.trains k)
              ∧ (leaves → told ∧ tget t.trains h = some { v with head := none, facing := none, lost := false })
              ∧ (¬ leaves → v.lost = false → told ∧ tget t.trains h = some { v with lost := true })
              ∧ (¬ leaves → v.lost = true → t.trains = s.trains))

/-! ### Routes -/

/-- Checks 2 to 6 of SET ROUTE, in their order: BAD REQUEST, NO SUCH ROUTE, BUSY, OUT OF TERRITORY, CONFLICT with the
reservation from the entrance, and TABLE FULL. Checks 7 to 10 of SET ROUTE: the first section that does not pass gives
CONFLICT with its reservation or OCCUPIED, then the first point LOCKED, POINT BUSY or ITEM FAILED, then the deck LOCKED,
ITEM FAILED or QUEUE FULL, and then the throw queue QUEUE FULL. When every check of SET ROUTE passes and no overlap is
taken over, the lowest-numbered FREE entry becomes the reservation of the station, with the train in the entrance
signal's berth; its sections and points are locked to it, its throws are queued or in motion for it, a deck that it
requires is its own, and the answer is ACCEPTED with the number and the state reached. No other lock changes. When the
accepted route takes over an overlap, the older reservation's overlap is released before the new one takes its locks:
its flag is set, its locks on the overlap's sections and points are gone, and it is retired if its path was wholly
released already. What the new route does not use of the overlap is left unlocked, the older reservation's queued orders
for its points are gone, and its state changes from SETTING alone, save where a queued order of its own starts. The
overlap taken over is that of the lowest-numbered reservation whose exit is the entrance signal and whose overlap is not
released; of those with overlap elements there is at most one. -/
def Obligations.SetRouteIsCheckedAndReserves : Prop :=
  (∀ (st : StationId) (tag : Byte) (entrance : Nat) (exit : ExitParam) (s : State), Asks st s → SlotsSound s →
        let c := Instr.setRoute st tag entrance exit
        let answer := fun r d => exec c s = .next (answered st tag 0x15 r d (goodReply st s))
        (127 < entrance ∨ exit = .other ∨ (∃ n, exit = .signal n ∧ 127 < n) → answer .badRequest .nothing)
          ∧ ∀ (a : SignalId) (x : RouteExit), a.val = entrance →
              ((∃ n : SignalId, exit = .signal n.val ∧ x = .signal n) ∨ (exit = .boundary ∧ x = .boundary)) →
            ((∀ n d, slotDef s n = some d → ¬ (d.entrance = a ∧ d.exit = x)) → answer .noSuchRoute .nothing)
              ∧ ∀ n d, slotDef s n = some d → d.entrance = a → d.exit = x →
                let allowed := st = supervisor ∨ (tget s.stations st).territory.signal a = true
                ((tget s.slots n).writing = true → answer .busy .nothing)
                  ∧ ((tget s.slots n).writing = false → ¬ allowed → RefusedOutOfTerritory c s st tag 0x15 (.signal a))
                  ∧ ((tget s.slots n).writing = false → allowed →
                    (∀ r, (tget s.signals a).entranceOf = some r → answer .conflict (.item (.res r)))
                      ∧ ((tget s.signals a).entranceOf = none → (∀ r, getRes s r ≠ none) →
                          answer .tableFull (.item .reservationTable))))
    ∧ (∀ (st : StationId) (tag : Byte) (s : State) (n : SlotId) (d : RouteDef), RouteFound st s n d →
          let c := Instr.setRoute st tag d.entrance.val (exitNamed d.exit)
          let answer := fun r i => exec c s = .next (answered st tag 0x15 r (.item i) (goodReply st s))
          let secs := (d.path ++ d.overlap).map (·.sec)
          let pts := elemPoints (d.path ++ d.overlap)
          (∀ l k rest, secs = l ++ k :: rest → (∀ m ∈ l, SectionPasses s d.entrance d.cls m) →
              (∀ g, (tget s.sections k).lock = some g → ¬ (g.isOverlap = true ∧ takenOver s d.entrance = some g.res) →
                  answer .conflict (.res g.res))
                ∧ ((∀ g, (tget s.sections k).lock = some g → g.isOverlap = true ∧ takenOver s d.entrance = some g.res) →
                    ¬ SectionPasses s d.entrance d.cls k → answer .occupied (.sec k)))
            ∧ ((∀ k ∈ secs, SectionPasses s d.entrance d.cls k) →
              (∀ l p rest, pts = l ++ p :: rest → (∀ m ∈ l, PointPasses s d.entrance m) →
                  let held := ∃ r, (tget s.points p).lock = .res r ∧ ¬ ∃ q v f, takenOver s d.entrance = some q
                    ∧ resDef s q = some (v, f) ∧ p ∈ elemPoints f.overlap
                  let busy := (∃ o ∈ s.throwQueue, o.point = p) ∨ (tget s.points p).state = .moving
                  (held → answer .locked (.point p)) ∧ (¬ held → busy → answer .pointBusy (.point p))
                    ∧ (¬ held → ¬ busy → (tget s.points p).state = .failed ∨ (tget s.points p).state = .unknown →
                        answer .itemFailed (.point p)))
                ∧ ((∀ p ∈ pts, PointPasses s d.entrance p) →
                  (∀ q, deckReq d = some q →
                      (s.tt.deckLock ≠ .free → answer .locked .deck)
                        ∧ (s.tt.deckLock = .free → s.tt.state = .unknown ∨ s.tt.state = .failed → answer .itemFailed .turntable)
                        ∧ (s.tt.deckLock = .free → s.tt.state ≠ .unknown → s.tt.state ≠ .failed →
                            neededAlignment s q ≠ none → 8 ≤ s.tt.queue.length → answer .queueFull .moveQueue))
                    ∧ (DeckPasses s d → 32 < s.throwQueue.length + (routeThrows s d).length → answer .queueFull .throwQueue))))
    ∧ (∀ (st : StationId) (tag : Byte) (s : State) (n : SlotId) (d : RouteDef) (r : ResId), RouteFound st s n d →
          (∀ k ∈ (d.path ++ d.overlap).map (·.sec), SectionPasses s d.entrance d.cls k) →
          (∀ p ∈ elemPoints (d.path ++ d.overlap), PointPasses s d.entrance p) → DeckPasses s d →
          s.throwQueue.length + (routeThrows s d).length ≤ 32 → takenOver s d.entrance = none →
          getRes s r = none → (∀ q, getRes s q = none → r ≤ q) → ∃ u v,
            exec (.setRoute st tag d.entrance.val (exitNamed d.exit)) s
                = .next (answered st tag 0x15 .accepted (.created r v.state) u)
              ∧ getRes u r = some v ∧ v.slot = n ∧ v.owner = .station st ∧ v.train = (berthOf s d.entrance).bind (headIn s)
              ∧ (v.state = .setting ∨ v.state = .proved ∨ v.state = .opened) ∧ (v.hasBeenOpen = true → v.state = .opened ∨ v.state = .proved)
              ∧ v.releaseCursor = 0 ∧ (v.overlapReleased = true ↔ d.overlap = []) ∧ v.fault = .clean ∧ v.releaseOrigin = none
              ∧ v.approachTimer = none ∧ v.overlapTimer = none ∧ v.emergencyTimer = none ∧ v.demoHold = none
              ∧ (tget u.signals d.entrance).entranceOf = some r
              ∧ (∀ k e, d.path[k]? = some e → (tget u.sections e.sec).lock = some ⟨r, .path k⟩)
              ∧ (∀ k e, d.overlap[k]? = some e → (tget u.sections e.sec).lock = some ⟨r, .overlap k⟩)
              ∧ (∀ k, k ∉ (d.path ++ d.overlap).map (·.sec) → tget u.sections k = tget s.sections k)
              ∧ (∀ p ∈ elemPoints (d.path ++ d.overlap), (tget u.points p).lock = .res r)
              ∧ (∀ p, p ∉ elemPoints (d.path ++ d.overlap) → (tget u.points p).lock = (tget s.points p).lock)
              ∧ (∀ q ∈ routeThrows s d, (⟨q.point, q.pos, some r⟩ : ThrowOrder) ∈ u.throwQueue
                  ∨ (tget u.points q.point).state = .moving ∧ (tget u.points q.point).throwOwner = some r
                    ∧ (tget u.points q.point).target = some q.pos)
              ∧ (routeThrows s d ≠ [] → v.state = .setting)
              ∧ (deckReq d ≠ none → u.tt.deckLock = .held r ∨ u.tt.deckLock = .promised r)
              ∧ (deckReq d = none → u.tt = s.tt))
    ∧ (∀ (st : StationId) (tag : Byte) (s : State) (n : SlotId) (d : RouteDef) (q : ResId) (w : Reservation) (f : RouteDef),
          RouteFound st s n d → (∀ k ∈ (d.path ++ d.overlap).map (·.sec), SectionPasses s d.entrance d.cls k) →
          (∀ p ∈ elemPoints (d.path ++ d.overlap), PointPasses s d.entrance p) → DeckPasses s d →
          s.throwQueue.length + (routeThrows s d).length ≤ 32 → takenOver s d.entrance = some q → resDef s q = some (w, f) →
          ∃ u r v, exec (.setRoute st tag d.entrance.val (exitNamed d.exit)) s
                = .next (answered st tag 0x15 .accepted (.created r v.state) u)
              ∧ getRes u r = some v ∧ v.slot = n ∧ v.owner = .station st ∧ (tget u.signals d.entrance).entranceOf = some r
              ∧ (∀ k e, d.path[k]? = some e → (tget u.sections e.sec).lock = some ⟨r, .path k⟩)
              ∧ (∀ p ∈ elemPoints (d.path ++ d.overlap), (tget u.points p).lock = .res r)
              ∧ (r ≠ q → (∀ k ∈ f.overlap.map (·.sec), ∀ l, (tget u.sections k).lock = some l → l.res ≠ q)
                  ∧ ∀ p ∈ elemPoints f.overlap, (tget u.points p).lock ≠ .res q)
              ∧ (∀ k ∈ f.overlap.map (·.sec), k ∉ (d.path ++ d.overlap).map (·.sec) → (tget u.sections k).lock = none)
              ∧ (∀ p ∈ elemPoints f.overlap, p ∉ elemPoints (d.path ++ d.overlap) → (tget u.points p).lock = .free)
              ∧ (∀ o ∈ u.throwQueue, o.point ∈ elemPoints f.overlap → o.owner = some r)
              ∧ (w.releases = true → f.path.length ≤ w.releaseCursor → r = q ∨ getRes u q = none)
              ∧ (¬ (w.releases = true ∧ f.path.length ≤ w.releaseCursor) → ∃ x, getRes u q = some x ∧ x.overlapReleased = true
                  ∧ x.overlapTimer = none ∧ x.releaseCursor = w.releaseCursor
                  ∧ (w.state = .setting → x.state = .setting ∨ x.state = .proved ∨ x.state = .opened)
                  ∧ (w.state ≠ .setting → (∀ o ∈ s.throwQueue, o.owner = some q → o.point ∈ elemPoints f.overlap) →
                      x.state = w.state)))
    ∧ ∀ (s : State) (a : SignalId),
          let claims := fun (q : ResId) (f : RouteDef) => ∃ w, resDef s q = some (w, f) ∧ f.exit = .signal a ∧ w.overlapReleased = false
          (∀ q, takenOver s a = some q ↔ (∃ f, claims q f) ∧ ∀ p, p < q → ∀ g, ¬ claims p g)
            ∧ (AllSound s → ∀ p q f g, claims p f → claims q g → f.overlap ≠ [] → g.overlap ≠ [] → p = q)

/-- SET THROUGH ROUTE: 2 to 5 signals, each 0 to 127; the legs are taken one after another as SET ROUTE takes them, and
stop at the first refusal, whose code the answer carries with the legs created, the residue and the number of the
refused leg. -/
def Obligations.AThroughRouteIsItsLegsInTurn : Prop :=
  ∀ (st : StationId), let h := fun l s => handleSetThrough st l s
    (∀ (tag : Byte) (l : List Nat) (s : State), Asks st s → let z := h l (goodReply st s)
        exec (.setThroughRoute st tag l) s = .next (answered st tag 0x16 z.1.result z.1.detail z.2))
      ∧ (∀ (tag : Byte) (a b : SignalId) (s : State), Asks st s → let z := setPair st 0x15 a (.signal b) (goodReply st s)
          exec (.setRoute st tag a.val (.signal b.val)) s = .next (answered st tag 0x15 z.1.result z.1.detail z.2))
      ∧ (∀ (l : List Nat) (s : State), l.length < 2 ∨ 5 < l.length ∨ (∃ n ∈ l, 127 < n) → h l s = (⟨.badRequest, .nothing⟩, s))
      ∧ ∀ (a b : SignalId) (rest : List Nat) (s : State), rest.length ≤ 3 → (∀ n ∈ rest, n ≤ 127) →
        let leg := setPair st 0x16 a (.signal b) s
        (∀ r x, leg.1.detail = .created r x → rest = [] → h [a.val, b.val] s = (⟨.done, .through [r] 0 none none⟩, leg.2))
          ∧ (∀ r x code cs k j i u, leg.1.detail = .created r x → rest ≠ [] →
              h (b.val :: rest) leg.2 = (⟨code, .through cs k j i⟩, u) →
              h (a.val :: b.val :: rest) s = (⟨code, .through (r :: cs) k (j.map (· + 1)) i⟩, u))
          ∧ ((∀ r x, leg.1.detail ≠ .created r x) → ∃ i, (∀ y, i = some y ↔ leg.1.detail = .item y)
              ∧ h (a.val :: b.val :: rest) s = (⟨leg.1.result, .through [] (rest.length + 1) (some 0) i⟩, leg.2))

/-- CANCEL ROUTE: the checks in their order. A reservation in OPEN or PROVED that is cancelled is held where it has been
open and its approach is occupied: APPROACH_HELD with its signal at DANGER, the approach timer started, the
demonstration hold stopped and every lock kept. Otherwise it is retired at once. Either way the owner has the ROUTE
event. A reservation in SETTING that is cancelled loses its queued orders and its queued move. Where it has been open
and its approach is occupied it is APPROACH_HELD; otherwise it is CANCELLING while a throw or its move is in flight;
otherwise it is retired. With an operation in flight its locks are dropped, but for the points that its throws move. -/
def Obligations.CancelRouteHoldsWithdrawsOrRetires : Prop :=
  (∀ (st : StationId) (tag : Byte) (res : Nat) (s : State), Asks st s → RoutesSound s →
        let c := Instr.cancelRoute st tag res
        let answer := fun r d => exec c s = .next (answered st tag 0x10 r d (goodReply st s))
        (63 < res → answer .badRequest .nothing)
          ∧ ∀ r : ResId, r.val = res →
            (getRes s r = none → answer .noSuchItem (.item (.res r)))
              ∧ ∀ v, getRes s r = some v →
                (st ≠ supervisor → v.owner ≠ .station st → answer .notPermitted .nothing)
                  ∧ (st = supervisor ∨ v.owner = .station st →
                      v.state = .traversed ∨ v.state = .approachHeld ∨ v.state = .cancelling ∨ v.state = .releasing →
                      answer .wrongState (.found (.res v.state))))
    ∧ (∀ (st : StationId) (tag : Byte) (r : ResId) (v : Reservation) (d : RouteDef) (s : State), Asks st s → AllSound s →
          resDef s r = some (v, d) → st = supervisor ∨ v.owner = .station st → v.state = .opened ∨ v.state = .proved →
          let held := v.hasBeenOpen = true ∧ ∃ n ∈ d.approach, (tget s.sections n).occ ≠ .clear
          (held → ∃ u, exec (.cancelRoute st tag r.val) s = .next (answered st tag 0x10 .accepted (.held d.approachTime) u)
              ∧ getRes u r = some { v with state := .approachHeld, approachTimer := some (d.approachTime * 1000), demoHold := none }
              ∧ (tget u.signals d.entrance).aspect = .danger ∧ OwnerTold s u v.owner .route ∧ u.sections = s.sections
              ∧ u.points = s.points ∧ u.throwQueue = s.throwQueue ∧ u.tt = s.tt)
            ∧ (¬ held → ∃ u, exec (.cancelRoute st tag r.val) s = .next (answered st tag 0x10 .done .retired u)
                ∧ Retired u r d ∧ OwnerTold s u v.owner .route))
    ∧ (∀ (st : StationId) (tag : Byte) (r : ResId) (v : Reservation) (d : RouteDef) (s : State), Asks st s → AllSound s →
          resDef s r = some (v, d) → st = supervisor ∨ v.owner = .station st → v.state = .setting →
          let held := v.hasBeenOpen = true ∧ ∃ n ∈ d.approach, (tget s.sections n).occ ≠ .clear
          let moves := ∃ m, s.tt.current = some m ∧ m.kind = .interlocking (some r)
          let flying := throwsInFlight s r ≠ [] ∨ (moves ∧ s.tt.deckLock ≠ .promised r)
          let resting := throwsInFlight s r = [] ∧ ¬ moves
          let withdrawn := fun u : State => (∀ o ∈ u.throwQueue, o.owner ≠ some r) ∧ ∀ m ∈ u.tt.queue, m.kind ≠ .interlocking (some r)
          let dropped := fun u : State => (∀ n l, (tget u.sections n).lock = some l → l.res ≠ r)
            ∧ ∀ p, (tget u.points p).lock = .res r → (tget u.points p).state = .moving ∧ (tget u.points p).throwOwner = some r
          let c := Instr.cancelRoute st tag r.val
          (held → flying ∨ resting → ∃ u w, exec c s = .next (answered st tag 0x10 .accepted (.held d.approachTime) u)
              ∧ getRes u r = some w ∧ w.state = .approachHeld ∧ w.approachTimer = some (d.approachTime * 1000)
              ∧ w.fault = v.fault ∧ withdrawn u ∧ (flying → dropped u)
              ∧ (resting → (∀ n, (tget u.sections n).lock = (tget s.sections n).lock)
                  ∧ ∀ p, (tget u.points p).lock = (tget s.points p).lock))
            ∧ (¬ held → flying → ∃ u w, exec c s = .next (answered st tag 0x10 .accepted
                  (.cancelling (throwsInFlight s r).length (moveInFlight s r)) u)
                ∧ getRes u r = some w ∧ w.state = .cancelling ∧ w.fault = v.fault ∧ withdrawn u ∧ dropped u)
            ∧ (¬ held → resting → ∃ u, exec c s = .next (answered st tag 0x10 .done .retired u) ∧ Retired u r d
                ∧ OwnerTold s u v.owner .route))

/-- EMERGENCY RELEASE: the checks in their order; a live reservation in any other state goes RELEASING with its origin
recorded, its signal at DANGER, the emergency timer started and its queued work gone. Section and point locks stay.
RETRY ROUTE: the checks in their order, the full queues, DONE where nothing is to be done, and otherwise ACCEPTED with
the throws gathered from the setting cursor on, each queued or in motion for the reservation, which stays in SETTING
with its fault note cleared. A throw is gathered for a point that is not queued and is FAILED, at rest in the other
position, or UNKNOWN with its board PRESENT. A deck move is gathered for a deck that is HELD and IDLE at a position that
the requirement at or after the cursor does not accept, with no move of the route queued, to the accepted position that
is fewer steps away, end A where both are as far; it is placed at the front of the queue, and starts if it may. -/
def Obligations.EmergencyReleaseAndRetryRouteDoTheirWork : Prop :=
  (∀ (st : StationId) (tag : Byte) (res : Nat) (s : State), Asks st s → AllSound s →
        let c := Instr.emergencyRelease st tag res
        let answer := fun r d => exec c s = .next (answered st tag 0x11 r d (goodReply st s))
        (st ≠ supervisor → answer .notPermitted .nothing)
          ∧ (st = supervisor → 63 < res → answer .badRequest .nothing)
          ∧ ∀ r : ResId, st = supervisor → r.val = res →
            (getRes s r = none → answer .noSuchItem (.item (.res r)))
              ∧ (∀ v, getRes s r = some v → v.state = .releasing → answer .wrongState (.found (.res .releasing)))
              ∧ ∀ v d, resDef s r = some (v, d) → v.state ≠ .releasing → ∃ u,
                  exec c s = .next (answered st tag 0x11 .accepted (.emergency s.timing.emergencyTime) u)
                    ∧ getRes u r = some { v with
                        state := .releasing, releaseOrigin := some v.state, approachTimer := none, demoHold := none
                        emergencyTimer := some s.timing.emergencyTime
                        overlapTimer := if v.state = .traversed then v.overlapTimer else none }
                    ∧ (tget u.signals d.entrance).aspect = .danger ∧ OwnerTold s u v.owner .route
                    ∧ (∀ n, tget u.sections n = tget s.sections n) ∧ (∀ p, (tget u.points p).lock = (tget s.points p).lock)
                    ∧ (∀ o ∈ u.throwQueue, o.owner ≠ some r)
                    ∧ (∀ m, m ∈ u.tt.queue ∨ u.tt.current = some m → m.kind ≠ .interlocking (some r))
                    ∧ u.tt.deckLock ≠ .promised r)
    ∧ (∀ (st : StationId) (tag : Byte) (res : Nat) (s : State), Asks st s → AllSound s →
          let c := Instr.retryRoute st tag res
          let answer := fun r d => exec c s = .next (answered st tag 0x14 r d (goodReply st s))
          (63 < res → answer .badRequest .nothing)
            ∧ ∀ r : ResId, r.val = res →
              (getRes s r = none → answer .noSuchItem (.item (.res r)))
                ∧ ∀ v d, resDef s r = some (v, d) →
                  let mine := st = supervisor ∨ v.owner = .station st
                  let throws := (((reqElems v d).drop v.settingCursor).filterMap (·.point)).filter (needsRetry s)
                  let move := retryMove s r v d
                  (¬ mine → answer .notPermitted .nothing)
                    ∧ (mine → v.state ≠ .setting → answer .wrongState (.found (.res v.state)))
                    ∧ (mine → v.state = .setting → 32 < s.throwQueue.length + throws.length →
                        answer .queueFull (.item .throwQueue))
                    ∧ (mine → v.state = .setting → s.throwQueue.length + throws.length ≤ 32 →
                      (move ≠ none → 8 ≤ s.tt.queue.length → answer .queueFull (.item .moveQueue))
                        ∧ (throws = [] → move = none → answer .done .nothing)
                        ∧ (throws ≠ [] ∨ move ≠ none → (move ≠ none → s.tt.queue.length < 8) → ∃ u w,
                            exec c s = .next (answered st tag 0x14 .accepted (.retried throws.length move.isSome) u)
                              ∧ getRes u r = some w ∧ w.state = .setting ∧ w.fault = .clean ∧ w.slot = v.slot
                              ∧ (∀ q ∈ throws, (⟨q.point, q.pos, some r⟩ : ThrowOrder) ∈ u.throwQueue
                                  ∨ (tget u.points q.point).state = .moving ∧ (tget u.points q.point).throwOwner = some r
                                    ∧ (tget u.points q.point).target = some q.pos)
                              ∧ (move = none → u.tt = s.tt)
                              ∧ (∀ j, move = some j →
                                let m : Move := ⟨s.tt.nextMoveNo, .interlocking (some r), some j, none, none⟩
                                let placed := { s.tt with nextMoveNo := s.tt.nextMoveNo + 1 }
                                (¬ MayStart s m → u.tt = { placed with queue := retime (m :: s.tt.queue) })
                                  ∧ (MayStart s m → u.tt = { placed with
                                      state := .unbolting, stageTimer := some 2000, current := some m
                                      queue := retime (s.tt.queue.map fun x => { x with waitTimer := none }) }))
                              ∧ u.sections = s.sections)))
    ∧ (∀ (s : State) (q : PointReq), needsRetry s q = true ↔
          let x := (tget s.points q.point).state
          (∀ o ∈ s.throwQueue, o.point ≠ q.point)
            ∧ (x = .failed ∨ ((x = .normal ∨ x = .reverse) ∧ x ≠ posState q.pos)
              ∨ (x = .unknown ∧ ∃ g, (tget s.points q.point).cfg = some g ∧ (tget s.boards g.board).state = .present)))
    ∧ ∀ (s : State) (r : ResId) (v : Reservation) (d : RouteDef) (j : RoadId), SlotsSound s → resDef s r = some (v, d) →
          (retryMove s r v d = some j ↔ s.tt.deckLock = .held r ∧ s.tt.state = .idle
            ∧ (∀ m ∈ s.tt.queue, m.kind ≠ .interlocking (some r))
            ∧ ∃ k e q p, v.settingCursor ≤ k ∧ (reqElems v d)[k]? = some e ∧ e.deck = some q ∧ s.tt.position = some p
              ∧ let a := q.road
                let b : RoadId := ⟨(q.road.val + 12) % 24, by omega⟩
                let way := fun x : RoadId => min ((x.val + 24 - p.val) % 24) ((p.val + 24 - x.val) % 24)
                match q.reqEnd with
                | .a => p ≠ a ∧ j = a
                | .b => p ≠ b ∧ j = b
                | .either => p ≠ a ∧ p ≠ b ∧ j = if way a ≤ way b then a else b)

/-- The overlap timer's expiry releases the overlap: its sections and points are no longer locked to the reservation,
which keeps its state, since the timer runs only while path elements are still to be released, and whose setting cursor
stands at most at the requirement count that is left (the model's reading, log 38). A stopped timer does not expire. At
the expiry of the approach timer, and of the emergency timer, the reservation is retired, whatever the occupancy. A
stopped timer does not expire. At the expiry of the demonstration hold a reservation in OPEN or PROVED is cancelled
under the rule for its state; in any other state only the timer stops. -/
def Obligations.TheTimersOfAReservationReleaseIt : Prop :=
  (∀ (r : ResId) (s : State), s.resetHeld = false → AllSound s →
        (∀ v, getRes s r = some v → v.overlapTimer = none → exec (.overlapTimerExpiry r) s = .next s)
          ∧ (getRes s r = none → exec (.overlapTimerExpiry r) s = .next s)
          ∧ ∀ v d, resDef s r = some (v, d) → v.overlapTimer ≠ none → ∃ t, exec (.overlapTimerExpiry r) s = .next t
              ∧ (∀ k ∈ d.overlap.map (·.sec), ∀ l, (tget t.sections k).lock = some l → l.res ≠ r)
              ∧ (∀ p ∈ elemPoints d.overlap, (tget t.points p).lock ≠ .res r)
              ∧ (∀ k, (tget t.sections k).occ = (tget s.sections k).occ)
              ∧ getRes t r = some { v with
                  overlapReleased := true, overlapTimer := none, settingCursor := min v.settingCursor d.path.length }
              ∧ ∀ k, k ∉ d.overlap.map (·.sec) → tget t.sections k = tget s.sections k)
    ∧ (∀ (r : ResId) (s : State), s.resetHeld = false → AllSound s →
          (getRes s r = none → exec (.approachTimerExpiry r) s = .next s ∧ exec (.emergencyTimerExpiry r) s = .next s)
            ∧ ∀ v d, resDef s r = some (v, d) →
              (v.approachTimer = none → exec (.approachTimerExpiry r) s = .next s)
                ∧ (v.emergencyTimer = none → exec (.emergencyTimerExpiry r) s = .next s)
                ∧ (v.approachTimer ≠ none → ∃ t, exec (.approachTimerExpiry r) s = .next t ∧ Retired t r d
                    ∧ OwnerTold s t v.owner .route ∧ ∀ k, (tget t.sections k).occ = (tget s.sections k).occ)
                ∧ (v.emergencyTimer ≠ none → ∃ t, exec (.emergencyTimerExpiry r) s = .next t ∧ Retired t r d
                    ∧ OwnerTold s t v.owner .route ∧ ∀ k, (tget t.sections k).occ = (tget s.sections k).occ))
    ∧ (∀ (r : ResId) (v : Reservation) (d : RouteDef) (s : State), s.resetHeld = false → AllSound s → resDef s r = some (v, d) →
          let held := v.hasBeenOpen = true ∧ ∃ n ∈ d.approach, (tget s.sections n).occ ≠ .clear
          (v.demoHold = none → exec (.demonstrationHoldExpiry r) s = .next s)
            ∧ (v.demoHold ≠ none → v.state ≠ .opened → v.state ≠ .proved → exec (.demonstrationHoldExpiry r) s = .next
                { s with reservations := tput s.reservations r (some { v with demoHold := none }) })
            ∧ (v.demoHold ≠ none → v.state = .opened ∨ v.state = .proved → held → ∃ t,
                exec (.demonstrationHoldExpiry r) s = .next t ∧ t.sections = s.sections ∧ t.points = s.points ∧ t.tt = s.tt
                  ∧ (tget t.signals d.entrance).aspect = .danger ∧ getRes t r = some { v with
                      state := .approachHeld, approachTimer := some (d.approachTime * 1000), demoHold := none })
            ∧ (v.demoHold ≠ none → v.state = .opened ∨ v.state = .proved → ¬ held → ∃ t,
                exec (.demonstrationHoldExpiry r) s = .next t ∧ Retired t r d))

/-- The end of a throw is taken by the reservation that ordered it: in SETTING a success proves the route once every
requirement is met, and a failure leaves the fault note of its point where the route still requires it; in CANCELLING,
and in APPROACH_HELD with its locks dropped, the point is released and the last operation to end retires the route; in
APPROACH_HELD with its locks kept, and in RELEASING, the reservation and the lock stay as they are. -/
def Obligations.TheEndOfAThrowIsTakenByItsRoute : Prop :=
  ∀ (p : PointId) (r : ResId) (v : Reservation) (d : RouteDef) (s t : State), AllSound s → s.resetHeld = false →
    (tget s.points p).state = .moving → (tget s.points p).throwOwner = some r → resDef s r = some (v, d) →
    let failed := exec (.throwTimerExpiry p) s = .next t
    let succeeded := s.loadState = .ready ∧ ∃ (a : BoardIdx) (c : Channel) (k : Contacts) (g : PointCfg),
      (tget s.points p).cfg = some g ∧ g.board = a ∧ g.channel = c ∧ t = detectionReport a c k s
        ∧ (((tget s.points p).target = some .normal ∧ k = ⟨true, false⟩)
          ∨ ((tget s.points p).target = some .reverse ∧ k = ⟨false, true⟩))
    let last := throwsInFlight s r = [p] ∧ ∀ m, s.tt.current = some m → m.kind ≠ .interlocking (some r)
    let stays := getRes t r = some v
    (failed → v.state = .setting → (p ∈ elemPoints (reqElems v d) → FaultTold s t r v (.point p))
        ∧ (p ∉ elemPoints (reqElems v d) → ∃ w, getRes t r = some w ∧ w.state = .setting ∧ w.fault = v.fault))
      ∧ (succeeded → v.state = .setting → ((∀ e ∈ reqElems v d, Met t r e) → Proves s t r v d)
        ∧ (¬ (∀ e ∈ reqElems v d, Met t r e) → (∀ o ∈ s.throwQueue, o.point ∉ elemPoints (d.path ++ d.overlap)) →
            ∃ w, getRes t r = some w ∧ w.state = .setting ∧ w.fault = v.fault))
      ∧ (failed ∨ succeeded → v.state = .cancelling →
          (tget t.points p).lock ≠ .res r ∧ (last → RetiredAndTold s t r v d) ∧ (¬ last → stays))
      ∧ (failed ∨ succeeded → v.state = .approachHeld → v.releaseCursor ≠ 0 → (tget t.points p).lock ≠ .res r
        ∧ (throwsInFlight s r = [p] → RetiredAndTold s t r v d) ∧ (throwsInFlight s r ≠ [p] → stays))
      ∧ (failed ∨ succeeded → (v.state = .approachHeld ∧ v.releaseCursor = 0) ∨ v.state = .releasing →
          stays ∧ (tget t.points p).lock = (tget s.points p).lock)

/-- The turntable's leaving IDLE or ending a route's move is taken by the reservation that has the deck: in SETTING a
move at its target proves the route once every requirement is met, and a turntable that fails, or is reset, leaves the
fault note DECK where the setting cursor had not passed the deck element or the route's own move is lost; PROVED and
OPEN fall back to SETTING with DECK and the signal at DANGER; CANCELLING frees the deck and is retired with its last
operation; and the other states are left. ROUTE FAILED is set also where the note was DECK before (the model's reading,
log 17). -/
def Obligations.TheTurntablesEndsAreTakenByTheRoute : Prop :=
  ∀ (r : ResId) (v : Reservation) (d : RouteDef) (s t : State), AllSound s → s.resetHeld = false → s.loadState = .ready →
    resDef s r = some (v, d) → s.tt.deckLock.holder = some r →
    let ours := fun m : Move => m.kind = .interlocking (some r)
    let runs := ∃ m, s.tt.current = some m ∧ ours m
    let reported := fun i : TurntableInputs => ∃ g, s.tt.cfg = some g ∧ t = turntableReport g.board i s ∧ i.fault = false
      ∧ (s.tt.lastIndexCount = none ∨ s.tt.lastIndexCount = some i.count)
    let ended := s.tt.state = .bolting ∧ ∃ i, reported i ∧ i.bolt = .isIn ∧ i.index = true
    let failed := (s.tt.runs ∧ exec .stageTimerExpiry s = .next t)
      ∨ (s.tt.state = .idle ∧ ∃ i, reported i ∧ (i.bolt ≠ .isIn ∨ i.index = false))
    let reset := Asks supervisor s ∧ ∃ tag, exec (.turntableReset supervisor tag) s = .next t
    let awaited := ∃ k e, d.path[k]? = some e ∧ e.deck ≠ none ∧ v.settingCursor ≤ k
    (ended → v.state = .setting → ((∀ e ∈ reqElems v d, Met t r e) → Proves s t r v d)
        ∧ (¬ (∀ e ∈ reqElems v d, Met t r e) → ∃ w, getRes t r = some w ∧ w.state = .setting ∧ w.fault = v.fault))
      ∧ (failed → v.state = .setting → (awaited ∨ runs ∨ (∃ m ∈ s.tt.queue, ours m) → FaultTold s t r v .deck)
        ∧ (¬ awaited → ¬ runs → (∀ m ∈ s.tt.queue, ¬ ours m) →
            ∃ w, getRes t r = some w ∧ w.state = .setting ∧ w.fault = v.fault))
      ∧ (reset → v.state = .setting → FaultTold s t r v .deck)
      ∧ (failed ∨ reset → v.state = .proved ∨ v.state = .opened → FaultTold s t r v .deck ∧ OwnerTold s t v.owner .route
        ∧ (tget t.signals d.entrance).aspect = .danger)
      ∧ (ended ∨ failed ∨ reset → v.state = .cancelling → runs → t.tt.deckLock.holder ≠ some r
        ∧ (throwsInFlight s r = [] → RetiredAndTold s t r v d) ∧ (throwsInFlight s r ≠ [] → getRes t r = some v))
      ∧ (ended ∨ failed ∨ reset → v.state = .traversed ∨ v.state = .approachHeld ∨ v.state = .releasing →
          getRes t r = some v ∧ (s.tt.deckLock = .held r → t.tt.deckLock = .held r))

/-- A required point of a route in PROVED or OPEN that is reported out of its position is a loss of requirement: the
route goes SETTING with its cursor at that element and the fault note of the point, its signal is at DANGER, its owner
has ROUTE and ROUTE FAILED and the supervisor ROUTE FAILED; no throw and no move is ordered, and every lock stays. -/
def Obligations.ALossOfRequirementClosesTheRoute : Prop :=
  ∀ (a : BoardIdx) (c : Channel) (k : Contacts) (p : PointId) (g : PointCfg) (r : ResId) (v : Reservation) (d : RouteDef)
    (j : Nat) (e : RouteElem) (q : PointReq) (s : State), AllSound s → s.loadState = .ready →
    (tget s.points p).cfg = some g → g.board = a → g.channel = c → resDef s r = some (v, d) →
    v.state = .proved ∨ v.state = .opened → (reqElems v d)[j]? = some e → e.point = some q → q.point = p →
    k ≠ (match q.pos with
      | .normal => ⟨true, false⟩
      | .reverse => ⟨false, true⟩) →
    let t := detectionReport a c k s
    getRes t r = some { v with state := .setting, settingCursor := j, fault := .point p }
      ∧ (tget t.signals d.entrance).aspect = .danger ∧ OwnerTold s t v.owner .route ∧ OwnerTold s t v.owner .routeFailed
      ∧ hasFlag t supervisor .routeFailed = true ∧ t.throwQueue = s.throwQueue ∧ t.tt = s.tt ∧ t.sections = s.sections
      ∧ ∀ i, (tget t.points i).lock = (tget s.points i).lock

/-! ### Trains -/

/-- INTERPOSE TRAIN and ENTER TRAIN OFF LAYOUT: the checks in their order; an accepted one puts the record with the
fields as given, 0 and the empty text being absent ones, into the lowest-numbered FREE entry and is answered DONE with
the handle. A station other than the supervisor sets the supervisor's TRAIN event. MOVE TRAIN: the checks in their
order, DONE where the train's head already stands there; an accepted one places the head with the facing as given,
clears LOST and keeps the other fields; where the entry is FREE and the section absent, the train is named (the model's
choice, log 63). DELETE TRAIN: the entry becomes FREE, the train field of every live reservation that names the train is
cleared and their number reported, each such owner and, for a station other than the supervisor, the supervisor have the
TRAIN event, and the train's announcements are CANCELLED, with no train, their text kept and the linger timer started
afresh. EDIT TRAIN: the checks in their order; an accepted one makes every named change and no other to the record, and
the train's announcements take a new headcode, and a new destination text unless their own was given. The WRONG STATE of
a facing for a train that is not on the deck reports just that (the model's choice, log 52). -/
def Obligations.TrainsArePlacedEditedAndDeleted : Prop :=
  (∀ (st : StationId) (tag : Byte) (sec loco : Nat) (headcode : Headcode) (kind : Option TrainKind) (dest : List Byte)
        (facing : Option DeckEnd) (s : State), Asks st s →
        let c := Instr.interposeTrain st tag sec headcode kind loco dest facing
        let e := Instr.enterTrainOffLayout st tag headcode kind loco dest
        let answer := fun r d => exec c s = .next (answered st tag 0x34 r d (goodReply st s))
        let entered := fun r d => exec e s = .next (answered st tag 0x32 r d (goodReply st s))
        let bad := kind = none ∨ 9999 < loco ∨ 16 < dest.length
        let full := ∀ t, tget s.trains t ≠ none
        let made := fun k n f => (⟨headcode, if loco = 0 then none else some loco, k, n, f, dest, false, false⟩ : Train)
        (bad → entered .badRequest .nothing)
          ∧ (¬ bad → full → entered .tableFull (.item .trainTable))
          ∧ (¬ bad → ∀ k t, kind = some k → LowestFree s.trains t → ∃ u,
              exec e s = .next (answered st tag 0x32 .done (.handle t) u)
                ∧ Flagged (st ≠ supervisor) .train supervisor
                    { goodReply st s with trains := tput s.trains t (some (made k none none)) } u)
          ∧ (255 < sec ∨ bad → answer .badRequest .nothing)
          ∧ ∀ n : SectionId, n.val = sec → ¬ bad →
            let facingFits := facing.isSome = true ↔ deckSection s = some n
            ((tget s.sections n).cfg = none → answer .noSuchItem (.item (.sec n)))
              ∧ ((tget s.sections n).cfg ≠ none → ¬ facingFits → answer .badRequest .nothing)
              ∧ ((tget s.sections n).cfg ≠ none → facingFits → (tget s.sections n).occ ≠ .occupied →
                  answer .occupied (.item (.sec n)))
              ∧ ((tget s.sections n).cfg ≠ none → facingFits → (tget s.sections n).occ = .occupied →
                (∀ t, IsHead s n t → HeadsSound s → answer .conflict (.item (.train t)))
                  ∧ (NoHead s n → full → answer .tableFull (.item .trainTable))
                  ∧ (NoHead s n → ∀ k t, kind = some k → LowestFree s.trains t → ∃ u w,
                      exec c s = .next (answered st tag 0x34 .done (.handle t) w) ∧ HeadsChanged [some n] u w
                        ∧ Flagged (st ≠ supervisor) .train supervisor
                            { goodReply st s with trains := tput s.trains t (some (made k (some n) facing)) } u)))
    ∧ (∀ (st : StationId) (tag : Byte) (handle sec : Nat) (facing : Option DeckEnd) (s : State), Asks st s → HeadsSound s →
          let c := Instr.moveTrain st tag handle sec facing
          let answer := fun r d => exec c s = .next (answered st tag 0x35 r d (goodReply st s))
          (47 < handle ∨ 255 < sec → answer .badRequest .nothing)
            ∧ ∀ (h : TrainId) (n : SectionId), h.val = handle → n.val = sec →
              (tget s.trains h = none → answer .noSuchItem (.item (.train h)))
                ∧ ∀ v, tget s.trains h = some v →
                  let facingFits := facing.isSome = true ↔ deckSection s = some n
                  ((tget s.sections n).cfg = none → answer .noSuchItem (.item (.sec n)))
                    ∧ ((tget s.sections n).cfg ≠ none → ¬ facingFits → answer .badRequest .nothing)
                    ∧ ((tget s.sections n).cfg ≠ none → facingFits → (tget s.sections n).occ ≠ .occupied →
                        answer .occupied (.item (.sec n)))
                    ∧ ((tget s.sections n).cfg ≠ none → facingFits → (tget s.sections n).occ = .occupied →
                      (v.head = some n → answer .done .nothing)
                        ∧ (∀ t, t ≠ h → IsHead s n t → answer .conflict (.item (.train t)))
                        ∧ (NoHead s n → ∃ u w, exec c s = .next (answered st tag 0x35 .done .nothing w)
                            ∧ HeadsChanged [v.head, some n] u w ∧ Flagged (st ≠ supervisor) .train supervisor { goodReply st s with
                                trains := tput s.trains h (some { v with head := some n, facing := facing, lost := false }) } u)))
    ∧ (∀ (st : StationId) (tag : Byte) (handle : Nat) (s : State), Asks st s → RoutesSound s →
          let c := Instr.deleteTrain st tag handle
          let answer := fun r d => exec c s = .next (answered st tag 0x30 r d (goodReply st s))
          (47 < handle → answer .badRequest .nothing)
            ∧ ∀ h : TrainId, h.val = handle →
              (tget s.trains h = none → answer .noSuchItem (.item (.train h)))
                ∧ ∀ v, tget s.trains h = some v →
                  let named := (List.finRange 64).filter fun r => (getRes s r).bind (·.train) == some h
                  ∃ u w, exec c s = .next (answered st tag 0x30 .done (.cleared named.length) w) ∧ HeadsChanged [v.head] u w
                    ∧ u.trains = tput s.trains h none
                    ∧ (∀ r, getRes u r = (getRes s r).map fun v => { v with train := if v.train = some h then none else v.train })
                    ∧ (∀ r v, getRes s r = some v → v.train = some h → OwnerTold s u v.owner .train)
                    ∧ (st ≠ supervisor → hasFlag u supervisor .train = true)
                    ∧ (∀ n a, tget s.announcements n = some a → a.train = some h → a.state ≠ .cancelled →
                        tget u.announcements n = some { a with
                          state := .cancelled, train := none, linger := some s.timing.lingerTime })
                    ∧ u = { goodReply st s with
                        trains := u.trains, reservations := u.reservations, announcements := u.announcements
                        depBoards := u.depBoards, stations := u.stations })
    ∧ (∀ (st : StationId) (tag : Byte) (handle : Nat) (e : TrainEdit) (s : State), Asks st s →
          let c := Instr.editTrain st tag handle e
          let answer := fun r d => exec c s = .next (answered st tag 0x31 r d (goodReply st s))
          let bad := (e.headcode = none ∧ e.kind = none ∧ e.loco = none ∧ e.dest = none ∧ e.facing = none ∧ e.clearPassed = false)
            ∨ e.kind = some none ∨ (∃ n, e.loco = some n ∧ 9999 < n) ∨ ∃ t, e.dest = some t ∧ 16 < t.length
          (47 < handle ∨ bad → answer .badRequest .nothing)
            ∧ ∀ h : TrainId, h.val = handle → ¬ bad →
              (tget s.trains h = none → answer .noSuchItem (.item (.train h)))
                ∧ ∀ v, tget s.trains h = some v →
                  let refused := e.clearPassed = true ∧ st ≠ supervisor
                  let misplaced := e.facing ≠ none ∧ ∀ n, v.head = some n → deckSection s ≠ some n
                  (refused → answer .notPermitted .nothing)
                    ∧ (¬ refused → misplaced → answer .wrongState (.found .notOnDeck))
                    ∧ (¬ refused → ¬ misplaced → ∃ u w, exec c s = .next (answered st tag 0x31 .done .nothing u)
                      ∧ u.trains = tput s.trains h (some w)
                      ∧ w.headcode = e.headcode.getD v.headcode ∧ (∀ k, e.kind = some (some k) → w.kind = k)
                      ∧ (e.kind = none → w.kind = v.kind) ∧ (e.loco = none → w.loco = v.loco)
                      ∧ (e.loco = some 0 → w.loco = none) ∧ (∀ n, e.loco = some n → n ≠ 0 → w.loco = some n)
                      ∧ w.dest = e.dest.getD v.dest ∧ (e.facing = none → w.facing = v.facing)
                      ∧ (∀ f, e.facing = some f → w.facing = some f) ∧ w.passed = (v.passed && !e.clearPassed)
                      ∧ w.head = v.head ∧ w.lost = v.lost ∧ (st ≠ supervisor → hasFlag u supervisor .train = true)
                      ∧ (∀ n, tget u.announcements n = (tget s.announcements n).map fun a =>
                          if a.train = some h then { a with
                            headcode := if w.headcode = v.headcode then a.headcode else w.headcode
                            dest := if w.dest = v.dest ∨ a.source = .own then a.dest else w.dest }
                          else a)
                      ∧ u = { goodReply st s with
                          trains := u.trains, announcements := u.announcements, depBoards := u.depBoards, stations := u.stations }))

/-! ### The turntable -/

/-- The turntable controller considers a start: with no queued move, or with the start conditions of the head not met,
nothing changes; a head whose target is the position ends at once, one whose target cannot be worked out is dropped, and
either is reported and the next is considered; any other becomes the current move and the turntable is UNBOLTING, with
its stage timer at 2 s, the drive at STOP and the bolt OUT. -/
def Obligations.TheHeadMoveStartsWhenItMay : Prop :=
  ∀ s : State, HeadsSound s → (s.tt.queue = [] → considerMove s = s)
    ∧ ∀ m rest, s.tt.queue = m :: rest →
      (¬ MayStart s m → considerMove s = s)
        ∧ (MayStart s m → (∀ p, ¬ TargetAtStart s m p) → ∃ t, considerMove s = considerMove t ∧ MoveTold s t m
            ∧ t.tt = { s.tt with queue := retime rest } ∧ t.sections = s.sections ∧ t.trains = s.trains)
        ∧ ∀ p, MayStart s m → TargetAtStart s m p →
          (s.tt.position = some p → ∃ t, considerMove s = considerMove t ∧ MoveTold s t m
              ∧ t.tt = { s.tt with queue := retime rest, phase := none, stageTimer := none, current := none }
              ∧ t.sections = s.sections ∧ t.trains = s.trains)
            ∧ (s.tt.position ≠ some p → (considerMove s).tt = { s.tt with
                  queue := retime rest, state := .unbolting, stageTimer := some 2000
                  current := some { m with waitTimer := none, target := some p } }
                ∧ (∀ g, s.tt.cfg = some g → (tget (considerMove s).boards g.board).image.ttDrive = .stop
                    ∧ (tget (considerMove s).boards g.board).image.ttBolt = .isOut)
                ∧ (considerMove s).sections = s.sections ∧ (considerMove s).trains = s.trains)

/-- A report of the TURNTABLE board gives the steps since the last count, and is taken by the state: a drive fault while
the deck is worked, a deck at rest that is not bolted in line or has moved, and a step where the deck should stand, each
fail the turntable; a withdrawn bolt starts the turning, by the shorter way; steps move the position, fail the turntable
past the target or against the datum, and bolt it at the target; and a driven bolt ends the move, after which a start is
considered: with an empty queue, and for any queue where the route that has the deck is not CANCELLING. Of a report that
gives a failure and an end, the fault goes first, then the steps, then the bolt (the model's choice, log 15). -/
def Obligations.ATurntableReportIsTakenByTheState : Prop :=
  ∀ (a : BoardIdx) (i : TurntableInputs) (s : State) (g : TurntableCfg), s.loadState = .ready → s.tt.cfg = some g →
    g.board = a → s.tt.state ≠ .homing →
    let d := match s.tt.lastIndexCount with
      | none => 0
      | some k => (i.count - k).toNat
    let t := turntableReport a i s
    let counted := { s.tt with lastIndexCount := some i.count }
    let worked := s.tt.state = .unbolting ∨ s.tt.state = .turning ∨ s.tt.state = .bolting
    let fails := (i.fault = true ∧ worked) ∨ (s.tt.state = .idle ∧ (i.bolt ≠ .isIn ∨ i.index = false ∨ 0 < d))
      ∨ ((s.tt.state = .unbolting ∨ s.tt.state = .bolting) ∧ 0 < d)
    (fails → Stopped s t { counted with state := .failed })
      ∧ (¬ fails → s.tt.state = .unknown ∨ s.tt.state = .failed ∨ s.tt.state = .idle
            ∨ (s.tt.state = .unbolting ∧ i.bolt ≠ .isOut) ∨ (s.tt.state = .turning ∧ d = 0)
            ∨ (s.tt.state = .bolting ∧ ¬ (i.bolt = .isIn ∧ i.index = true)) → t = { s with tt := counted })
      ∧ (¬ fails → s.tt.state = .unbolting → i.bolt = .isOut →
          t.tt = { counted with state := .turning, stageTimer := some s.timing.stepTime }
            ∧ ∀ p m q, s.tt.position = some p → s.tt.current = some m → m.target = some q →
              (tget t.boards a).image.ttDrive
                = if (q.val + 24 - p.val) % 24 ≤ 12 then .clockwise else .anticlockwise)
      ∧ (¬ fails → s.tt.state = .turning → 0 < d → ∀ p m q, s.tt.position = some p → s.tt.current = some m →
          m.target = some q → (tget s.boards a).image.ttDrive ≠ .stop →
          let forward := (tget s.boards a).image.ttDrive = .clockwise
          let left := if forward then (q.val + 24 - p.val) % 24 else (p.val + 24 - q.val) % 24
          let next := if forward then (p.val + d) % 24 else (p.val + 24 - d % 24) % 24
          let against := left < d ∨ ¬ (i.datum = true ↔ next = 0)
          (against → t.tt.state = .failed ∧ t.tt.position = none ∧ t.tt.current = none ∧ t.tt.queue = []
              ∧ (∀ x, t.tt.lastPosition = some x ↔ x.val = next) ∧ (tget t.boards a).image.ttDrive = .stop)
            ∧ (¬ against → ∃ x : RoadId, x.val = next
                ∧ (next ≠ q.val → t.tt = { counted with position := some x, stageTimer := some s.timing.stepTime })
                ∧ (next = q.val → t.tt = { counted with position := some x, state := .bolting, stageTimer := some 2000 }
                    ∧ (tget t.boards a).image.ttDrive = .stop ∧ (tget t.boards a).image.ttBolt = .isIn)))
      ∧ (¬ fails → s.tt.state = .bolting → i.bolt = .isIn → i.index = true → ∀ m, s.tt.current = some m →
          s.tt.queue = [] → MoveTold s t m ∧ t.tt = { counted with
            state := .idle, phase := none, stageTimer := none, current := none, deckLock := t.tt.deckLock }
            ∧ (s.tt.deckLock = .free → t.tt.deckLock = .free)
            ∧ ∀ r, s.tt.deckLock.holder = some r → (∀ v, getRes s r = some v → v.state ≠ .cancelling) →
                t.tt.deckLock = .held r)
      ∧ (¬ fails → s.tt.state = .bolting → i.bolt = .isIn → i.index = true → ∀ m, s.tt.current = some m →
          (∀ r v, s.tt.deckLock.holder = some r ∨ m.kind = .interlocking (some r) → getRes s r = some v →
            v.state ≠ .cancelling) → ∃ u, t = considerMove u ∧ MoveTold s u m ∧ u.tt = { counted with
              state := .idle, phase := none, stageTimer := none, current := none
              deckLock := match s.tt.deckLock with
                | .promised r => .held r
                | l => l })

/-- A report while HOMING, by its phase, in a turntable that obeys its law (at most 24 steps counted): a drive fault, a
step in the unbolt or bolt phase, and 24 steps without the datum fail the turntable; a withdrawn bolt starts the seek,
or at the datum the bolt phase; steps are counted, up to 24 (the model's choice, log 54); the datum starts the bolt
phase; and a bolt driven at the datum ends homing, IDLE at position 0 with the interruption cleared. Of a report that
gives a failure and an end, the fault and the steps go first, and the datum goes before the count (the model's choice,
log 15). -/
def Obligations.AHomingReportIsTakenByThePhase : Prop :=
  ∀ (a : BoardIdx) (i : TurntableInputs) (s : State) (g : TurntableCfg), s.loadState = .ready → s.tt.cfg = some g →
    g.board = a → s.tt.state = .homing → RunningLaw s →
    let d := match s.tt.lastIndexCount with
      | none => 0
      | some k => (i.count - k).toNat
    let t := turntableReport a i s
    let counted := { s.tt with lastIndexCount := some i.count }
    let datum := i.index = true ∧ i.datum = true
    let n := min 24 (s.tt.stepsCounted + d)
    let fails := i.fault = true ∨ (s.tt.phase ≠ some .seek ∧ s.tt.phase ≠ none ∧ 0 < d)
    let bolts := fun steps => t.tt = { counted with phase := some .bolt, stageTimer := some 2000, stepsCounted := steps }
      ∧ (tget t.boards a).image.ttDrive = .stop ∧ (tget t.boards a).image.ttBolt = .isIn
      ∧ t = { s with tt := t.tt, boards := t.boards }
    (fails → Stopped s t { counted with state := .failed })
      ∧ (¬ fails → s.tt.phase = some .unbolt → i.bolt ≠ .isOut → t = { s with tt := counted })
      ∧ (¬ fails → s.tt.phase = some .unbolt → i.bolt = .isOut → datum → bolts s.tt.stepsCounted)
      ∧ (¬ fails → s.tt.phase = some .unbolt → i.bolt = .isOut → ¬ datum → (tget t.boards a).image.ttDrive = .clockwise
        ∧ t.tt = { counted with phase := some .seek, stageTimer := some s.timing.stepTime, stepsCounted := 0 }
        ∧ t = { s with tt := t.tt, boards := t.boards })
      ∧ (¬ fails → s.tt.phase = some .seek → datum → bolts n)
      ∧ (¬ fails → s.tt.phase = some .seek → ¬ datum → 24 ≤ n →
          Stopped s t { counted with state := .failed, stepsCounted := n })
      ∧ (¬ fails → s.tt.phase = some .seek → ¬ datum → n < 24 → 0 < d →
          t = { s with tt := { counted with stepsCounted := n, stageTimer := some s.timing.stepTime } })
      ∧ (¬ fails → s.tt.phase = some .seek → ¬ datum → n < 24 → d = 0 → t = { s with tt := counted })
      ∧ (¬ fails → s.tt.phase = some .bolt → ¬ (i.bolt = .isIn ∧ datum) → t = { s with tt := counted })
      ∧ (¬ fails → s.tt.phase = some .bolt → i.bolt = .isIn → datum → ∃ u, t = considerMove u
        ∧ hasFlag u supervisor .turntable = true ∧ u.tt = { counted with
            state := .idle, phase := none, stageTimer := none, position := some 0, interrupted := false, current := none
            deckLock := match s.tt.deckLock with
              | .promised r => .held r
              | l => l })

/-- A pit-edge section that goes OCCUPIED or UNKNOWN fails the turntable in UNBOLTING, in TURNING and in the unbolt and
seek phases of homing; any other change of a pit-edge or of the deck section lets a start be considered, and no other
section is taken. -/
def Obligations.APitEdgeStopsTheDeck : Prop :=
  ∀ (n : SectionId) (s : State) (g : TurntableCfg), s.tt.cfg = some g →
    let watched := s.tt.state = .unbolting ∨ s.tt.state = .turning
      ∨ (s.tt.state = .homing ∧ (s.tt.phase = some .unbolt ∨ s.tt.phase = some .seek))
    let pit := n = g.pit1 ∨ n = g.pit2
    (∀ x, pit → x ≠ .clear → watched → Stopped s (turntableSection n x s) { s.tt with state := .failed })
      ∧ (∀ x, pit ∨ n = g.deck → ¬ (pit ∧ x ≠ .clear ∧ watched) → turntableSection n x s = considerMove s)
      ∧ (∀ x, ¬ pit → n ≠ g.deck → turntableSection n x s = s)
      ∧ (AllSound s → Watched s n → (tget s.sections n).occ ≠ .occupied → pit → watched →
        let t := detectorReport n true s
        t.tt.state = .failed ∧ t.tt.position = none ∧ t.tt.current = none ∧ t.tt.queue = []
          ∧ (tget t.boards g.board).image.ttDrive = .stop ∧ hasFlag t supervisor .turntable = true)

/-- TURNTABLE HOME: the checks in their order, the section named being the first of the pit edges and the deck that
refuses (log 37); an accepted one is answered with its number and begins the unbolt phase of HOMING, with the stage
timer at 2 s, the drive at STOP and the bolt OUT. TURNTABLE MOVE: the checks in their order; an accepted one is answered
with its number and its place in the queue, and its move, with the target of the absolute form or the train, end and
road of the relative one, joins the tail, after which a start is considered. -/
def Obligations.TurntableHomeAndTurntableMoveBegin : Prop :=
  (∀ (st : StationId) (tag : Byte) (s : State), Asks st s →
        let c := Instr.turntableHome st tag
        let answer := fun r d => exec c s = .next (answered st tag 0x41 r d (goodReply st s))
        (st ≠ supervisor → answer .notPermitted .nothing)
          ∧ (st = supervisor → s.tt.cfg = none → answer .noSuchItem (.item .turntable))
          ∧ ∀ g, st = supervisor → s.tt.cfg = some g →
            let down := s.tt.state = .unknown ∨ s.tt.state = .failed
            let served := (tget s.boards g.board).state = .present
            let occ := fun n => (tget s.sections n).occ
            let deckFits := occ g.deck = .clear ∨ (occ g.deck = .occupied ∧ ¬ NoHead s g.deck)
            (¬ down → answer .wrongState (.found (.turntable s.tt.state)))
              ∧ (down → ¬ served → answer .itemFailed (.item .turntable))
              ∧ (down → served → occ g.pit1 ≠ .clear → answer .occupied (.item (.sec g.pit1)))
              ∧ (down → served → occ g.pit1 = .clear → occ g.pit2 ≠ .clear → answer .occupied (.item (.sec g.pit2)))
              ∧ (down → served → occ g.pit1 = .clear → occ g.pit2 = .clear → ¬ deckFits →
                  answer .occupied (.item (.sec g.deck)))
              ∧ (down → served → occ g.pit1 = .clear → occ g.pit2 = .clear → deckFits → ∃ u,
                  exec c s = .next (answered st tag 0x41 .accepted (.move s.tt.nextMoveNo none) u)
                    ∧ u.tt = { s.tt with
                        state := .homing, phase := some .unbolt, stageTimer := some 2000, nextMoveNo := s.tt.nextMoveNo + 1
                        current := some ⟨s.tt.nextMoveNo, .home, some 0, none, none⟩ }
                    ∧ (tget u.boards g.board).image.ttDrive = .stop ∧ (tget u.boards g.board).image.ttBolt = .isOut
                    ∧ u.sections = s.sections ∧ u.points = s.points ∧ u.trains = s.trains))
    ∧ (∀ (st : StationId) (tag : Byte) (road : Nat) (moveEnd : Option MoveEnd) (s : State), Asks st s → HeadsSound s →
          let c := Instr.turntableMove st tag road moveEnd
          let answer := fun r d => exec c s = .next (answered st tag 0x42 r d (goodReply st s))
          let queues := fun m : Move => exec c s = .next
            (answered st tag 0x42 .accepted (.move s.tt.nextMoveNo (some (s.tt.queue.length + 1))) (considerMove
              { goodReply st s with tt := { s.tt with
                  nextMoveNo := s.tt.nextMoveNo + 1, queue := retime (s.tt.queue ++ [m]) } }))
          (23 < road ∨ moveEnd = none → answer .badRequest .nothing)
            ∧ ∀ (j : RoadId) (e : MoveEnd), j.val = road → moveEnd = some e →
              (s.tt.cfg = none → answer .noSuchItem (.item .turntable))
                ∧ ∀ g, s.tt.cfg = some g →
                  let allowed := st = supervisor ∨ (tget s.stations st).territory.turntable = true
                  (tget g.roads j = none → answer .noSuchItem (.item (.road j)))
                    ∧ (tget g.roads j ≠ none → ¬ allowed → RefusedOutOfTerritory c s st tag 0x42 .turntable)
                    ∧ (tget g.roads j ≠ none → allowed →
                      (s.tt.state = .unknown ∨ s.tt.state = .failed → answer .itemFailed (.item .turntable))
                        ∧ (s.tt.state ≠ .unknown → s.tt.state ≠ .failed →
                          (s.tt.deckLock ≠ .free → answer .locked (.item .deck))
                            ∧ (s.tt.deckLock = .free → e = .front ∨ e = .rear → NoHead s g.deck →
                                answer .noSuchItem (.item (.sec g.deck)))
                            ∧ (s.tt.deckLock = .free → e = .a ∨ e = .b →
                              (8 ≤ s.tt.queue.length → answer .queueFull (.item .moveQueue))
                                ∧ (s.tt.queue.length < 8 → queues ⟨s.tt.nextMoveNo, .operator st,
                                    some (if e = .a then j else ⟨(j.val + 12) % 24, by omega⟩), none, none⟩))
                            ∧ ∀ t v, s.tt.deckLock = .free → e = .front ∨ e = .rear → tget s.trains t = some v →
                                v.head = some g.deck →
                              (v.facing = none → answer .wrongState (.item (.train t)))
                                ∧ (v.facing ≠ none → 8 ≤ s.tt.queue.length → answer .queueFull (.item .moveQueue))
                                ∧ (v.facing ≠ none → s.tt.queue.length < 8 →
                                    queues ⟨s.tt.nextMoveNo, .operator st, none, some ⟨t, e = .front, j⟩, none⟩))))

/-- WITHDRAW MOVE, and the wait timer's expiry: the move that is named, or the head, leaves the queue, the rest keep
their order, and a start is considered. The supervisor's withdrawal of an OPERATOR move sets the TURNTABLE event for the
move's station, its own included (the model's reading, log 47), and a station that withdraws its own move does not hear;
a withdrawn DEMO move, and every move that is dropped, is reported. A move that runs, an INTERLOCKING move, and
another's move are refused. Of two moves with one number the current one is found first, then the one nearest the head
(the model's choice, log 55). The WRONG STATE reports that the move runs, or that it is the interlocking's, as the state
found (the model's choice, log 62). A stopped wait timer does not expire. -/
def Obligations.AMoveLeavesTheQueueUnrun : Prop :=
  (∀ (st : StationId) (tag : Byte) (number : Nat) (s : State), Asks st s →
      let c := Instr.withdrawMove st tag number
      let answer := fun r d => exec c s = .next (answered st tag 0x44 r d (goodReply st s))
      (255 < number → answer .badRequest .nothing)
        ∧ ∀ n : MoveNo, n.toNat = number →
          let runs := ∃ m, s.tt.current = some m ∧ m.number = n
          (runs → answer .wrongState (.found .moveRunning))
            ∧ (¬ runs → (∀ m ∈ s.tt.queue, m.number ≠ n) → answer .noSuchItem (.item (.move n)))
            ∧ ∀ l m r, ¬ runs → s.tt.queue = l ++ m :: r → m.number = n → (∀ x ∈ l, x.number ≠ n) →
              let left := { goodReply st s with tt := { s.tt with queue := retime (l ++ r) } }
              let done := fun w => exec c s = .next (answered st tag 0x44 .done .nothing (considerMove w))
              ((∃ q, m.kind = .interlocking q) → answer .wrongState (.found .moveInterlocking))
                ∧ (st ≠ supervisor → (∃ q, q ≠ st ∧ m.kind = .operator q) ∨ (∃ b, m.kind = .demo b) →
                    answer .notPermitted .nothing)
                ∧ (∀ q, m.kind = .operator q → q = st ∨ st = supervisor → ∃ w, done w
                    ∧ Flagged (st = supervisor ∧ isEnrolled s q = true) .turntable q left w)
                ∧ (∀ b, st = supervisor → m.kind = .demo b → ∃ w, done w ∧ MoveTold s w m
                    ∧ w = { left with buttons := w.buttons, boards := w.boards }))
    ∧ ∀ s : State, s.resetHeld = false →
      (s.tt.queue = [] → exec .waitTimerExpiry s = .next s)
        ∧ ∀ m rest, s.tt.queue = m :: rest →
          (m.waitTimer = none → exec .waitTimerExpiry s = .next s)
            ∧ (m.waitTimer ≠ none → ∃ w, exec .waitTimerExpiry s = .next (considerMove w) ∧ MoveTold s w m
                ∧ w.tt = { s.tt with queue := retime rest }
                ∧ w = { s with tt := w.tt, stations := w.stations, buttons := w.buttons, boards := w.boards })

/-- TURNTABLE RESET and the stage timer's expiry stop the turntable, UNKNOWN and FAILED: the checks of the request in
their order; a reset in the middle of a move marks it interrupted. A stopped stage timer does not expire. -/
def Obligations.TheTurntableIsStopped : Prop :=
  (∀ (st : StationId) (tag : Byte) (s : State), Asks st s →
      let c := Instr.turntableReset st tag
      let answer := fun r d => exec c s = .next (answered st tag 0x43 r d (goodReply st s))
      (st ≠ supervisor → answer .notPermitted .nothing)
        ∧ (st = supervisor → s.tt.cfg = none → answer .noSuchItem (.item .turntable))
        ∧ (st = supervisor → s.tt.cfg ≠ none → ∃ u, exec c s = .next (answered st tag 0x43 .done .nothing u)
            ∧ u.trains = s.trains ∧ ∀ w : Bool,
              (w = true ↔ s.tt.interrupted = true ∨ s.tt.state = .homing ∨ s.tt.state = .unbolting
                ∨ s.tt.state = .turning ∨ s.tt.state = .bolting) →
              Stopped s u { s.tt with state := .unknown, stepsCounted := 0, interrupted := w }))
    ∧ ∀ s : State, s.resetHeld = false →
      (s.tt.stageTimer = none → exec .stageTimerExpiry s = .next s)
        ∧ (s.tt.stageTimer ≠ none → s.tt.state ≠ .unknown → s.tt.state ≠ .failed → ∃ t,
            exec .stageTimerExpiry s = .next t ∧ Stopped s t { s.tt with state := .failed } ∧ t.trains = s.trains)

/-! ### Departure boards and buttons -/

/-- ANNOUNCE: the checks in their order; an accepted one takes the lowest-numbered FREE entry, joins the tail of its
board's list with the train's headcode, the text given or the train's, READY while its condition holds and WAITING
otherwise; its line is shown and the ANNOUNCE event set. A text that is given empty is given all the same, and the
announcement's own (the model's reading, log 39). Of several announcements of the train from the signal, CONFLICT names
the lowest-numbered (the model's choice, log 56). EDIT ANNOUNCEMENT: the checks in their order; an accepted one makes
every named change and no other, tests the condition afresh where the platform signal changes, is answered with the
state reached, and shows the line. Here too an empty text that is given is the announcement's own (the model's reading,
log 39). CONFLICT names the lowest-numbered announcement that repeats (the model's choice, log 56). Where a text of its
own and the return to the train's are both named, one of the two stands, and which is left open (the model's reading of
R141, log 57). Where several items of the NO SUCH ITEM check fail, the first of the board, the train and the signal, or
the announcement before the signal, is named (the model's choice, log 63). WITHDRAW ANNOUNCEMENT and the linger timer's
expiry retire an announcement, in any state: the checks of the request in their order. A stopped linger timer does not
expire. -/
def Obligations.AnnouncementsAreMadeEditedAndRetired : Prop :=
  (∀ (st : StationId) (tag : Byte) (board train signal : Nat) (time : List Byte) (dest : Option (List Byte)) (s : State),
        Asks st s → ListsSound s →
        let c := Instr.announce st tag board train signal time dest
        let answer := fun r d => exec c s = .next (answered st tag 0x50 r d (goodReply st s))
        let bad := time.length ≠ 5 ∨ ∃ t, dest = some t ∧ 16 < t.length
        (3 < board ∨ 47 < train ∨ 127 < signal ∨ bad → answer .badRequest .nothing)
          ∧ ∀ (b : DepBoardId) (t : TrainId) (x : SignalId), b.val = board → t.val = train → x.val = signal → ¬ bad →
            let allowed := st = supervisor ∨ (tget s.stations st).territory.board b = true
            let same := fun n => ∃ a, tget s.announcements n = some a ∧ a.board = b ∧ a.train = some t ∧ a.signal = x
              ∧ (a.state = .waiting ∨ a.state = .ready)
            let list := (tget s.depBoards b).list
            ((tget s.depBoards b).addr = none → answer .noSuchItem (.item (.depBoard b)))
              ∧ ((tget s.depBoards b).addr ≠ none → tget s.trains t = none → answer .noSuchItem (.item (.train t)))
              ∧ ∀ v, (tget s.depBoards b).addr ≠ none → tget s.trains t = some v →
                ((tget s.signals x).cfg = none → answer .noSuchItem (.item (.signal x)))
                  ∧ ((tget s.signals x).cfg ≠ none → ¬ allowed → RefusedOutOfTerritory c s st tag 0x50 (.depBoard b))
                  ∧ ((tget s.signals x).cfg ≠ none → allowed →
                    (∀ n, same n → (∀ m, same m → n ≤ m) → answer .conflict (.item (.ann n)))
                      ∧ ((∀ n, ¬ same n) → 8 ≤ list.length → answer .tableFull (.item (.depBoard b)))
                      ∧ ((∀ n, ¬ same n) → list.length < 8 → (∀ n, tget s.announcements n ≠ none) →
                          answer .tableFull (.item .announcementTable))
                      ∧ ∀ (n : AnnId) (p : LineNo), (∀ n, ¬ same n) → p.val = list.length → LowestFree s.announcements n →
                        ∃ u a, exec c s = .next (answered st tag 0x50 .done (.announced n p.val) u)
                          ∧ u.announcements = tput s.announcements n (some a)
                          ∧ (∀ y, a = { board := b, train := some t, headcode := v.headcode, signal := x, time := time
                                        dest := dest.getD v.dest, source := if dest = none then .train else .own
                                        state := y, linger := none } ↔ y = a.state)
                          ∧ (a.state = .ready ↔ ∃ r w, (tget s.signals x).entranceOf = some r ∧ getRes s r = some w
                              ∧ (w.state = .proved ∨ w.state = .opened) ∧ w.train = some t)
                          ∧ (a.state = .ready ∨ a.state = .waiting)
                          ∧ (tget u.depBoards b).list = list ++ [n] ∧ LineShown s u b p (annLine a) ∧ AnnounceTold s u b
                          ∧ (∀ d, d ≠ b → tget u.depBoards d = tget s.depBoards d)
                          ∧ u = { goodReply st s with
                              announcements := u.announcements, depBoards := u.depBoards, stations := u.stations }))
    ∧ (∀ (st : StationId) (tag : Byte) (n : Nat) (e : AnnEdit) (s : State), Asks st s → ListsSound s →
          let c := Instr.editAnnouncement st tag n e
          let answer := fun r d => exec c s = .next (answered st tag 0x51 r d (goodReply st s))
          let bad := (e.time = none ∧ e.dest = none ∧ e.signal = none) ∨ (∃ t, e.time = some t ∧ t.length ≠ 5)
            ∨ (∃ t, (e.dest = some (.own t) ∨ e.dest = some (.both t)) ∧ 16 < t.length) ∨ ∃ k, e.signal = some k ∧ 127 < k
          (31 < n ∨ bad → answer .badRequest .nothing)
            ∧ ∀ k : AnnId, k.val = n → ¬ bad →
              (tget s.announcements k = none → answer .noSuchItem (.item (.ann k)))
                ∧ ∀ a, tget s.announcements k = some a →
                  let known := ∀ x : SignalId, e.signal = some x.val → (tget s.signals x).cfg ≠ none
                  let allowed := st = supervisor ∨ (tget s.stations st).territory.board a.board = true
                  let shows := a.state = .waiting ∨ a.state = .ready
                  let repeats := fun m => m ≠ k ∧ ∃ (x : SignalId) (t : TrainId) (w : Announcement), e.signal = some x.val
                    ∧ a.train = some t ∧ tget s.announcements m = some w ∧ w.board = a.board ∧ w.train = some t ∧ w.signal = x
                    ∧ (w.state = .waiting ∨ w.state = .ready)
                  (∀ x : SignalId, e.signal = some x.val → (tget s.signals x).cfg = none →
                      answer .noSuchItem (.item (.signal x)))
                    ∧ (known → ¬ allowed → RefusedOutOfTerritory c s st tag 0x51 (.depBoard a.board))
                    ∧ (known → allowed → ¬ shows → answer .wrongState (.found (.ann a.state)))
                    ∧ (known → allowed → shows → ∀ m, repeats m → (∀ j, repeats j → m ≤ j) →
                        answer .conflict (.item (.ann m)))
                    ∧ (known → allowed → shows → (∀ m, ¬ repeats m) → ∃ u w,
                        exec c s = .next (answered st tag 0x51 .done (.annState w.state) u)
                          ∧ u.announcements = tput s.announcements k (some w)
                          ∧ w.board = a.board ∧ w.train = a.train ∧ w.headcode = a.headcode ∧ w.linger = a.linger
                          ∧ w.time = e.time.getD a.time
                          ∧ (e.dest = none → w.dest = a.dest ∧ w.source = a.source)
                          ∧ (∀ t, e.dest = some (.own t) → w.dest = t ∧ w.source = .own)
                          ∧ (∀ t v, e.dest = some .train → a.train = some t → tget s.trains t = some v →
                              w.dest = v.dest ∧ w.source = .train)
                          ∧ (∀ x t v, e.dest = some (.both x) → a.train = some t → tget s.trains t = some v →
                              (w.dest = x ∧ w.source = .own) ∨ (w.dest = v.dest ∧ w.source = .train))
                          ∧ (e.signal = none → w.signal = a.signal ∧ w.state = a.state)
                          ∧ (∀ x : SignalId, e.signal = some x.val → w.signal = x ∧ (w.state = .ready ∨ w.state = .waiting)
                              ∧ (w.state = .ready ↔ ∃ r y, (tget s.signals x).entranceOf = some r ∧ getRes s r = some y
                                  ∧ (y.state = .proved ∨ y.state = .opened) ∧ a.train ≠ none ∧ y.train = a.train))
                          ∧ (∀ p : LineNo, (tget s.depBoards a.board).list[p.val]? = some k →
                              LineShown s u a.board p (annLine w))
                          ∧ (∀ d, (tget u.depBoards d).list = (tget s.depBoards d).list) ∧ AnnounceTold s u a.board
                          ∧ u = { goodReply st s with
                              announcements := u.announcements, depBoards := u.depBoards, stations := u.stations
                              freeCtr := u.freeCtr }))
    ∧ ((∀ (st : StationId) (tag : Byte) (n : Nat) (s : State), Asks st s →
            let c := Instr.withdrawAnnouncement st tag n
            let answer := fun r d => exec c s = .next (answered st tag 0x55 r d (goodReply st s))
            (31 < n → answer .badRequest .nothing)
              ∧ ∀ k : AnnId, k.val = n →
                (tget s.announcements k = none → answer .noSuchItem (.item (.ann k)))
                  ∧ ∀ a, tget s.announcements k = some a →
                    let allowed := st = supervisor ∨ (tget s.stations st).territory.board a.board = true
                    (¬ allowed → RefusedOutOfTerritory c s st tag 0x55 (.depBoard a.board))
                      ∧ (allowed → ∃ u, exec c s = .next (answered st tag 0x55 .done .nothing u)
                          ∧ AnnRetired (goodReply st s) u k a))
          ∧ ∀ (k : AnnId) (s : State), s.resetHeld = false →
            (tget s.announcements k = none → exec (.lingerExpiry k) s = .next s)
              ∧ ∀ a, tget s.announcements k = some a →
                (a.linger = none → exec (.lingerExpiry k) s = .next s)
                  ∧ (a.linger ≠ none → ∃ t, exec (.lingerExpiry k) s = .next t ∧ AnnRetired s t k a))

/-- SET OPEN DAY: the checks in their order, DONE with nothing changed for the value it has; on makes every configured
button READY; off makes every button OFF, removes every queued DEMO move and cancels every demonstration reservation in
SETTING, PROVED or OPEN, and reports how many of each. The other queued moves keep their order; while a move runs, those
that remain are all but the DEMO moves and those of the reservations cancelled. A reservation that has been open and
whose approach is occupied is APPROACH_HELD, its signal at DANGER and its approach timer started; any other is retired,
or CANCELLING while a throw or its move is in flight. One in SETTING loses its queued work, and with an operation in
flight its section locks; one at rest that is held keeps its path. -/
def Obligations.SetOpenDayTurnsTheButtons : Prop :=
  ∀ (st : StationId) (tag : Byte) (value : Option Bool) (s : State), Asks st s → AllSound s →
    let c := Instr.setOpenDay st tag value
    let answer := fun r d => exec c s = .next (answered st tag 0x54 r d (goodReply st s))
    let demo := fun v : Reservation => v.owner = .demo ∧ (v.state = .setting ∨ v.state = .proved ∨ v.state = .opened)
    let isDemo := fun m : Move => ∃ b, m.kind = .demo b
    (st ≠ supervisor → answer .notPermitted .nothing)
      ∧ (st = supervisor → value = none → answer .badRequest .nothing)
      ∧ (st = supervisor → value = some s.openDay → answer .done .nothing)
      ∧ (st = supervisor → value = some true → s.openDay = false → ∃ u,
          exec c s = .next (answered st tag 0x54 .done .nothing u) ∧ u.openDay = true
            ∧ (∀ b, ((tget s.buttons b).cfg = none → tget u.buttons b = tget s.buttons b)
                ∧ ((tget s.buttons b).cfg ≠ none → tget u.buttons b = { tget s.buttons b with state := .ready }
                  ∧ LampShows s u b .ready))
            ∧ u = { goodReply st s with openDay := true, buttons := u.buttons, boards := u.boards })
      ∧ (st = supervisor → value = some false → s.openDay = true → ∃ (u : State) (moves : List Move) (l : List ResId),
          exec c s = .next (answered st tag 0x54 .done (.openDayOff moves.length l.length) u) ∧ u.openDay = false
            ∧ (∀ m, m ∈ moves ↔ m ∈ s.tt.queue ∧ isDemo m) ∧ moves.Sublist s.tt.queue
            ∧ l.Nodup ∧ (∀ r, r ∈ l ↔ ∃ v, getRes s r = some v ∧ demo v)
            ∧ (∀ m ∈ u.tt.queue, ¬ isDemo m)
            ∧ (∀ b, tget u.buttons b = { tget s.buttons b with
                  state := .off, busyWith := none, lampTimer := none, cooldownTimer := none } ∧ LampShows s u b .off)
            ∧ (∀ r v, getRes u r = some v → ¬ demo v)
            ∧ (let bare := fun m : Move => { m with waitTimer := none }
              (u.tt.queue.map bare).Sublist ((s.tt.queue.filter fun m => match m.kind with
                  | .demo _ => false
                  | _ => true).map bare)
                ∧ (s.tt.state ≠ .idle → u.tt.queue.map bare = (s.tt.queue.filter fun m => match m.kind with
                  | .demo _ => false
                  | .interlocking (some r) => decide (r ∉ l)
                  | _ => true).map bare))
            ∧ (∀ r v d, resDef s r = some (v, d) → demo v →
              let held := v.hasBeenOpen = true ∧ ∃ n ∈ d.approach, (tget s.sections n).occ ≠ .clear
              let throws := fun x : State => ∃ p, (tget x.points p).state = .moving ∧ (tget x.points p).throwOwner = some r
              let runs := fun x : State => ∃ m, x.tt.current = some m ∧ m.kind = .interlocking (some r)
              let ordered := ∃ o ∈ s.throwQueue, o.owner = some r
              let waits := ∃ m ∈ s.tt.queue, m.kind = .interlocking (some r)
              let flies := v.state = .setting ∧ (throws s ∨ runs s)
              let rests := ¬ ordered ∧ (v.state = .setting → ¬ throws s ∧ ¬ runs s ∧ ¬ waits)
              let dropped := ∀ n y, (tget u.sections n).lock = some y → y.res ≠ r
              (held → ∃ w, getRes u r = some w ∧ w.state = .approachHeld ∧ w.approachTimer = some (d.approachTime * 1000)
                  ∧ w.demoHold = none ∧ (tget u.signals d.entrance).aspect = .danger)
                ∧ (held → rests → ∀ k e, d.path[k]? = some e → (tget u.sections e.sec).lock = some ⟨r, .path k⟩
                    ∧ ∀ q ∈ e.point, (tget u.points q.point).lock = .res r)
                ∧ (held → flies → dropped)
                ∧ (¬ held → rests → Retired u r d)
                ∧ (¬ held → flies → dropped ∧ ∃ w, getRes u r = some w ∧ w.state = .cancelling ∧ w.fault = v.fault)
                ∧ (¬ held → Retired u r d ∨ ∃ w, getRes u r = some w ∧ w.state = .cancelling ∧ (throws u ∨ runs u))
                ∧ (v.state = .setting → (∀ o ∈ u.throwQueue, o.owner ≠ some r)
                  ∧ ∀ m ∈ u.tt.queue, m.kind ≠ .interlocking (some r)))
            ∧ ∀ k, (tget u.sections k).occ = (tget s.sections k).occ)

/-- A press of a TURNTABLE button is ignored in OFF, BUSY and NOT_NOW and restarts the rest of a COOLDOWN button; a
READY button whose move is refused goes NOT_NOW with its lamp timer at 3 s, and one whose move is accepted is BUSY with
it before the start is considered (the model's choice, log 35). At the expiry of the lamp timer and of the cooldown
timer the button goes READY. A stopped timer does not expire. -/
def Obligations.ButtonsFollowPressesAndTimers : Prop :=
  ∀ (b : ButtonId) (s : State) (g : ButtonCfg), (tget s.buttons b).cfg = some g → ChannelsDistinct s →
    let e := tget s.buttons b
    let set := fun (t : State) (x : ButtonRec) => t.buttons = tput s.buttons b x ∧ LampShows s t b x.state
      ∧ t = { s with buttons := t.buttons, boards := t.boards }
    (e.state = .off ∨ e.state = .busy ∨ e.state = .notNow → press b s = s)
      ∧ (e.state = .cooldown →
          press b s = { s with buttons := tput s.buttons b { e with cooldownTimer := some (g.cooldown * 1000) } })
      ∧ (∀ j f, e.state = .ready → g.kind = .turntable j f →
          let p := endPosition j f
          let demos := s.tt.queue.filter fun m => match m.kind with
            | .demo _ => true
            | _ => false
          let refused := s.tt.cfg = none ∨ s.tt.state = .unknown ∨ s.tt.state = .failed ∨ s.tt.deckLock ≠ .free
            ∨ 8 ≤ s.tt.queue.length ∨ 2 ≤ demos.length ∨ ∃ m ∈ demos, m.target = some p
          (refused → set (press b s) { e with state := .notNow, lampTimer := some 3000 })
            ∧ (¬ refused → ∃ t, press b s = considerMove t
                ∧ t.buttons = tput s.buttons b { e with state := .busy, busyWith := some (.move s.tt.nextMoveNo) }
                ∧ LampShows s t b .busy ∧ t.tt = { s.tt with
                    nextMoveNo := s.tt.nextMoveNo + 1
                    queue := retime (s.tt.queue ++ [⟨s.tt.nextMoveNo, .demo b, some p, none, none⟩]) }
                ∧ t = { s with tt := t.tt, buttons := t.buttons, boards := t.boards }))
      ∧ (s.resetHeld = false →
        (e.lampTimer = none → exec (.lampTimerExpiry b) s = .next s)
          ∧ (e.lampTimer ≠ none → ∃ t, exec (.lampTimerExpiry b) s = .next t
              ∧ set t { e with state := .ready, lampTimer := none })
          ∧ (e.cooldownTimer = none → exec (.cooldownExpiry b) s = .next s)
          ∧ (e.cooldownTimer ≠ none → ∃ t, exec (.cooldownExpiry b) s = .next t
              ∧ set t { e with state := .ready, cooldownTimer := none }))

/-- A ROUTE button that is READY sets the route of its slot for the demonstration owner, who may have 4: where any check
of SET ROUTE but the territory's fails, the button goes NOT_NOW with its lamp timer at 3 s and nothing else changes;
otherwise the reservation is made and the button is BUSY with it, and a hold of 20 s runs once the route is OPEN. -/
def Obligations.ARouteButtonSetsItsRoute : Prop :=
  ∀ (b : ButtonId) (s : State) (c : ButtonCfg) (n : SlotId), AllSound s → s.loadState = .ready →
    (tget s.buttons b).cfg = some c → c.kind = .route n → (tget s.buttons b).state = .ready →
    let e := tget s.buttons b
    let t := press b s
    let passes := fun d => (tget s.signals d.entrance).entranceOf = none ∧ (∃ r, getRes s r = none) ∧ demosLive s < 4
      ∧ (∀ k ∈ (d.path ++ d.overlap).map (·.sec), SectionPasses s d.entrance d.cls k)
      ∧ (∀ p ∈ elemPoints (d.path ++ d.overlap), PointPasses s d.entrance p) ∧ DeckPasses s d
      ∧ s.throwQueue.length + (routeThrows s d).length ≤ 32
    let refused := (tget s.slots n).writing = true ∨ ∀ d, slotDef s n = some d → ¬ passes d
    (refused → t = { s with buttons := t.buttons, boards := t.boards }
        ∧ t.buttons = tput s.buttons b { e with state := .notNow, lampTimer := some 3000 } ∧ LampShows s t b .notNow)
      ∧ ∀ d, ¬ refused → slotDef s n = some d → ∃ r v, getRes t r = some v ∧ v.slot = n ∧ v.owner = .demo
        ∧ v.train = (berthOf s d.entrance).bind (headIn s) ∧ (tget t.signals d.entrance).entranceOf = some r
        ∧ (v.state = .setting ∨ v.state = .proved ∨ v.state = .opened)
        ∧ (v.state = .opened → v.demoHold = some 20000) ∧ (v.state ≠ .opened → v.demoHold = none)
        ∧ (∀ k x, d.path[k]? = some x → (tget t.sections x.sec).lock = some ⟨r, .path k⟩)
        ∧ tget t.buttons b = { e with state := .busy, busyWith := some (.res r) } ∧ LampShows s t b .busy
        ∧ (takenOver s d.entrance = none → getRes s r = none ∧ ∀ q, getRes s q = none → r ≤ q)

/-! ### The field link -/

/-- A good IMAGE to a REFRESH: from a PRESENT board of the configured type its whole image is handed to the owners, with
the count 0 and the mismatch mark no; from any other board of the type it makes the board PRESENT, with its inputs
discarded and the re-read called for, boards that return being re-read in the order of their return (the model's choice,
log 16); of another type it sets the mark, the BOARD event if the mark was not set, and is a miss, which restarts the
re-poll timer of a FAILED board (the model's choice, log 65). Then the next send is made. With nothing outstanding it is
discarded, and so is every IMAGE from an address that is not configured; from a configured one it ends a grant, and is a
miss of the board that another exchange is with (the model's reading, log 21). A LINE that the IMAGE of a DISPLAY board
calls for waits behind those called for before, and they are sent in that order (the model's choice, log 58). -/
def Obligations.AnImageEndsItsRefresh : Prop :=
  ∀ (a : BoardIdx) (i : BoardInputs) (attention : Bool) (s : State), s.resetHeld = false → ChannelsDistinct s →
    let c := Instr.image a i attention
    let b := tget s.boards a
    (s.fieldLink.outstanding = .quiet ∨ b.type = none → exec c s = .next s)
      ∧ (s.fieldLink.outstanding = .grant → b.type ≠ none → ∃ t, exec c s = .next t ∧ SendsNext s t)
      ∧ (∀ x, (s.fieldLink.outstanding = .refresh x ∧ x ≠ a) ∨ (∃ n y, s.fieldLink.outstanding = .line x n y) → b.type ≠ none →
          ∃ u t, exec c s = .next t ∧ Missed x s u ∧ ExchangeEnds attention u t)
      ∧ (s.fieldLink.outstanding = .refresh a → b.type = some i.type → b.state = .present → ∃ u t,
          exec c s = .next t ∧ ExchangeEnds attention u t
            ∧ u = handInputs a i { s with
                boards := tput s.boards a { b with mismatch := false, missCount := 0 }
                fieldLink := { s.fieldLink with
                  lineDue := if i.type = .display ∧ a ∉ s.fieldLink.lineDue then s.fieldLink.lineDue ++ [a]
                    else s.fieldLink.lineDue } })
      ∧ (s.fieldLink.outstanding = .refresh a → b.type = some i.type → b.state ≠ .present → ∃ u t,
          exec c s = .next t ∧ ExchangeEnds attention u t ∧ Flagged (b.state = .failed) .board supervisor
            (ownersReturn a { s with
              boards := tput s.boards a { b with
                state := .present, mismatch := false, missCount := 0, repollTimer := none, repollDue := false }
              fieldLink := { s.fieldLink with returned := s.fieldLink.returned ++ [a] } }) u)
      ∧ ∀ y, s.fieldLink.outstanding = .refresh a → b.type = some y → y ≠ i.type → ∃ w u t,
          exec c s = .next t ∧ ExchangeEnds attention u t ∧ Missed a w u
            ∧ Flagged (b.mismatch = false) .board supervisor
                { s with boards := tput s.boards a { b with mismatch := true } } w

/-- An answer that does not come within 2 ms, or that is not good, is a miss of the board that the exchange is with,
after which the next send is made; the miss restarts the re-poll timer of a FAILED board, for an answer that is not good
by the model's choice (log 65). With no exchange outstanding it is nothing. A grant ends with a REPORT, with none within
2 ms, or with a bad one. A good REPORT of the configured type is taken as a good IMAGE is, and clears the mismatch mark
as one does (the model's reading, log 42); any other is discarded; no miss is counted; and the next send is made, boards
that have returned being re-read in the order of their return (the model's choice, log 16). With nothing outstanding a
REPORT is nothing; during another exchange it is not the answer, and one of a configured board's address is a miss of
the exchange's board (the model's reading, log 21), with which the exchange ends at the attention level last sampled
(the model's choice, log 28). Here and below, of several LINEs that are due the one that was called for first is sent
first (the model's choice, log 58). A good LINE TAKEN clears the send mark if the line still reads as it was sent, sets
the board's miss count to 0, and leaves its mismatch mark (the model's choice, log 60). With nothing outstanding a LINE
TAKEN is nothing, and so is one from an address that is not configured; any other ends a grant, or is a miss of the
board that the exchange is with (the model's reading, log 21). The re-poll timer's expiry makes a REFRESH of the FAILED
board due, at once on a quiet line. A stopped timer does not expire. -/
def Obligations.TheOtherAnswersEndTheirExchanges : Prop :=
  (∀ (c : Instr) (attention : Bool) (s : State), c = .fieldAnswerTimeout attention ∨ c = .fieldBadAnswer attention →
        s.resetHeld = false → ChannelsDistinct s →
        (s.fieldLink.outstanding = .quiet ∨ s.fieldLink.outstanding = .grant → exec c s = .next s)
          ∧ ∀ a, s.fieldLink.outstanding = .refresh a ∨ (∃ n x, s.fieldLink.outstanding = .line a n x) → ∃ u t,
              exec c s = .next t ∧ Missed a s u ∧ ExchangeEnds attention u t)
    ∧ (∀ s : State, s.resetHeld = false → ChannelsDistinct s →
          (∀ c, c = .grantTimeout ∨ c = .badReport → s.fieldLink.outstanding = .grant → ∃ t, exec c s = .next t ∧ SendsNext s t)
            ∧ ∀ (a : BoardIdx) (i : BoardInputs),
              let c := Instr.report a i
              let b := tget s.boards a
              let g := s.fieldLink.outstanding = .grant
              (g → b.type ≠ some i.type → ∃ t, exec c s = .next t ∧ SendsNext s t)
                ∧ (g → b.type = some i.type → b.state = .present → ∃ u t, exec c s = .next t
                    ∧ u = handInputs a i { s with boards := tput s.boards a { b with mismatch := false, missCount := 0 } }
                    ∧ SendsNext u t)
                ∧ (g → b.type = some i.type → b.state ≠ .present → ∃ u t, exec c s = .next t ∧ SendsNext u t
                    ∧ Flagged (b.state = .failed) .board supervisor (ownersReturn a { s with
                        boards := tput s.boards a { b with
                          state := .present, mismatch := false, missCount := 0, repollTimer := none, repollDue := false }
                        fieldLink := { s.fieldLink with returned := s.fieldLink.returned ++ [a] } }) u)
                ∧ (s.fieldLink.outstanding = .quiet → exec c s = .next s)
                ∧ ∀ x, s.fieldLink.outstanding = .refresh x ∨ (∃ n y, s.fieldLink.outstanding = .line x n y) →
                  (b.type = none → exec c s = .next s)
                    ∧ (b.type ≠ none → ∃ u t, exec c s = .next t ∧ Missed x s u ∧ ExchangeEnds s.fieldLink.attention u t))
    ∧ ((∀ (a : BoardIdx) (n : LineNo) (x : List Byte) (attention : Bool) (s : State), s.resetHeld = false →
            ChannelsDistinct s → (tget s.boards a).type ≠ none → s.fieldLink.outstanding = .line a n x → ∃ u t,
              exec (.lineTaken a n attention) s = .next t ∧ ExchangeEnds attention u t
                ∧ (∀ b p, tget (tget u.depBoards b).lines p
                    = if (tget s.depBoards b).addr = some a ∧ p = n ∧ (tget (tget s.depBoards b).lines p).text = x
                      then { tget (tget s.depBoards b).lines p with mark := false } else tget (tget s.depBoards b).lines p)
                ∧ (∀ b, tget u.depBoards b = { tget s.depBoards b with lines := (tget u.depBoards b).lines })
                ∧ u = { s with
                    boards := tupd s.boards a fun b => { b with missCount := 0 }, depBoards := u.depBoards })
          ∧ (∀ (a : BoardIdx) (n : LineNo) (attention : Bool) (s : State), s.resetHeld = false → ChannelsDistinct s →
            let c := Instr.lineTaken a n attention
            let known := (tget s.boards a).type ≠ none
            (s.fieldLink.outstanding = .quiet ∨ ¬ known → exec c s = .next s)
              ∧ (s.fieldLink.outstanding = .grant → known → ∃ t, exec c s = .next t ∧ SendsNext s t)
              ∧ ∀ x, s.fieldLink.outstanding = .refresh x
                  ∨ (∃ m y, s.fieldLink.outstanding = .line x m y ∧ ¬ (x = a ∧ m = n)) → known →
                ∃ u t, exec c s = .next t ∧ Missed x s u ∧ ExchangeEnds attention u t)
          ∧ ∀ (a : BoardIdx) (s : State), s.resetHeld = false → ChannelsDistinct s →
            let due := { s with boards := tupd s.boards a fun b => { b with repollTimer := none, repollDue := true } }
            ((tget s.boards a).repollTimer = none → exec (.boardRepollExpiry a) s = .next s)
              ∧ ((tget s.boards a).repollTimer ≠ none → s.fieldLink.outstanding ≠ .quiet →
                  exec (.boardRepollExpiry a) s = .next due)
              ∧ ((tget s.boards a).repollTimer ≠ none → s.fieldLink.outstanding = .quiet → ∃ t,
                  exec (.boardRepollExpiry a) s = .next t ∧ (¬ GrantDue s → SendsNext due t)
                    ∧ t = { s with boards := t.boards, fieldLink := t.fieldLink }))

/-- The inputs of a board go to the owner of its channels one by one, in ascending order (the model's choice, log 8). A
fault report starts the fault filter of a district whose booster is on, unless it runs, and stops it when the fault
goes; and a button that was RELEASED and is PRESSED is a press, its level being kept. -/
def Obligations.TheInputsOfABoardAreHandedOn : Prop :=
  ∀ (a : BoardIdx) (s : State), ChannelsDistinct s →
    (∀ active, ∃ u : Nat → State, u 0 = s ∧ handInputs a (.detector active) s = u 16 ∧ ∀ i : Fin 16,
        (∀ n g, (tget s.sections n).cfg = some g → g.board = a → g.input = i →
            u (i.val + 1) = detectorReport n (tget active i) (u i.val))
          ∧ ((∀ n g, (tget s.sections n).cfg = some g → g.board = a → g.input ≠ i) → u (i.val + 1) = u i.val))
      ∧ (∀ contacts, ∃ u : Nat → State, u 0 = s ∧ handInputs a (.point contacts) s = u 8
          ∧ ∀ c : Fin 8, u (c.val + 1) = detectionReport a c (tget contacts c) (u c.val))
      ∧ (∀ fault, ∃ u : Nat → State, u 0 = s ∧ handInputs a (.district fault) s = u 8 ∧ ∀ c : Fin 8,
        (∀ d g, (tget s.districts d).cfg = some g → g.board = a → g.channel = c →
            u (c.val + 1) = faultReport d (tget fault c) (u c.val))
          ∧ ((∀ d g, (tget s.districts d).cfg = some g → g.board = a → g.channel ≠ c) → u (c.val + 1) = u c.val))
      ∧ (∀ pressed, ∃ u : Nat → State, u 0 = s ∧ handInputs a (.button pressed) s = u 8
          ∧ ∀ c : Fin 8, u (c.val + 1) = buttonReport a c (tget pressed c) (u c.val))
      ∧ (∀ i, handInputs a (.turntable i) s = turntableReport a i s)
      ∧ handInputs a .signal s = s ∧ handInputs a .display s = s
      ∧ (∀ (d : DistrictId) (active : Bool), let e := tget s.districts d
        let on := e.state = .normal ∨ (e.state = .tripped ∧ e.confirmWindow ≠ none)
        (¬ on → faultReport d active s = s)
          ∧ (on → active = true → e.faultFilter ≠ none → faultReport d active s = s)
          ∧ (on → active = true → e.faultFilter = none →
              faultReport d active s = { s with districts := tput s.districts d { e with faultFilter := some 10 } })
          ∧ (on → active = false →
              faultReport d active s = { s with districts := tput s.districts d { e with faultFilter := none } }))
      ∧ (∀ c k, s.loadState ≠ .ready ∨ (∀ p g, (tget s.points p).cfg = some g → g.board = a → g.channel ≠ c) →
          detectionReport a c k s = s)
      ∧ (∀ i, s.loadState ≠ .ready ∨ (∀ g, s.tt.cfg = some g → g.board ≠ a) → turntableReport a i s = s)
      ∧ ∀ (c : Channel) (x : Bool),
        (s.loadState ≠ .ready ∨ (∀ b g, (tget s.buttons b).cfg = some g → g.board = a → g.channel ≠ c) →
            buttonReport a c x s = s)
          ∧ ∀ b g, s.loadState = .ready → (tget s.buttons b).cfg = some g → g.board = a → g.channel = c →
            let seen := { s with buttons := tput s.buttons b { tget s.buttons b with lastLevel := some x } }
            ((tget s.buttons b).lastLevel = some false ∧ x = true → buttonReport a c x s = press b seen)
              ∧ (¬ ((tget s.buttons b).lastLevel = some false ∧ x = true) → buttonReport a c x s = seen)

/-- The owners take a board's departure from PRESENT, once it has left: sections become UNKNOWN, points UNKNOWN with
their orders gone, signals uncontrolled at DANGER, districts without power, the turntable FAILED, and buttons without a
level; a DISPLAY board's departure changes nothing. -/
def Obligations.TheOwnersTakeADeparture : Prop :=
  ∀ (a : BoardIdx) (s : State), AllSound s → (tget s.boards a).state ≠ .present →
    let t := ownersLeave a s
    (HasType s .detector a → ∀ n g, (tget s.sections n).cfg = some g → g.board = a →
        (tget s.districts g.district).state = .normal → (tget t.sections n).occ = .unknown ∧ (tget t.sections n).clearTimer = none)
      ∧ (HasType s .detector a → ∀ n g, (tget s.sections n).cfg = some g → g.board ≠ a →
        (tget t.sections n).occ = (tget s.sections n).occ ∧ (tget t.sections n).clearTimer = (tget s.sections n).clearTimer)
      ∧ (HasType s .point a → ∀ p g, (tget s.points p).cfg = some g → g.board = a →
        (tget t.points p).state = .unknown ∧ (tget t.points p).target = none ∧ (∀ o ∈ t.throwQueue, o.point ≠ p)
          ∧ ((tget s.points p).state ≠ .unknown → PointTold s t p)
          ∧ ((tget s.points p).state = .moving → tget (tget t.boards a).image.drives g.channel = .idle))
      ∧ (HasType s .signal a → ∀ x g, (tget s.signals x).cfg = some g →
        (g.board = a → (tget t.signals x).controlled = false ∧ (tget t.signals x).aspect = .danger)
          ∧ (g.board ≠ a → (tget t.signals x).controlled = (tget s.signals x).controlled))
      ∧ (HasType s .district a → ∀ d g, (tget s.districts d).cfg = some g → g.board = a →
        tget (tget t.boards a).image.enables g.channel = false
          ∧ ((tget s.districts d).state = .normal → AllTold s t .district ∧ tget t.districts d = { tget s.districts d with
              state := .tripped, retryCount := 0, faultFilter := none, retryTimer := none })
          ∧ ((tget s.districts d).state = .tripped → tget t.districts d = { tget s.districts d with
              retryTimer := none, confirmWindow := none, faultFilter := none })
          ∧ ((tget s.districts d).state ≠ .normal → (tget s.districts d).state ≠ .tripped →
              tget t.districts d = tget s.districts d))
      ∧ (HasType s .turntable a → ∀ g, s.tt.cfg = some g → g.board = a → s.tt.state ≠ .unknown → s.tt.state ≠ .failed →
        Stopped s t { s.tt with state := .failed })
      ∧ (HasType s .display a → t = s)
      ∧ (HasType s .button a → t = { s with buttons := t.buttons } ∧ ∀ b g, (tget s.buttons b).cfg = some g → g.board = a →
        tget t.buttons b = { tget s.buttons b with lastLevel := none })

/-- The owners take a board's return, once it is PRESENT: its signals are controlled, a PROVED route from one opens
where the open conditions hold, and every aspect is again what R21's table gives; TRIPPED districts start their retry
timer at 5 s; the turntable has no index count; every line of a departure board is marked; and nothing is done for a
DETECTOR, a POINT or a BUTTON board, whose owners wait for its first report. -/
def Obligations.TheOwnersTakeAReturn : Prop :=
  ∀ (a : BoardIdx) (s : State), AllSound s → (tget s.boards a).state = .present →
    let t := ownersReturn a s
    (HasType s .signal a →
        (∀ x g, (tget s.signals x).cfg = some g → (tget t.signals x).cfg = some g
          ∧ (g.board = a → (tget t.signals x).controlled = true)
          ∧ (g.board ≠ a → (tget t.signals x).controlled = (tget s.signals x).controlled))
          ∧ (∀ x, ShowsAs t x (tget t.signals x).aspect)
          ∧ ∀ r v d g, resDef s r = some (v, d) → (tget s.signals d.entrance).cfg = some g → g.board = a →
            v.state = .proved → Opens t r d → ∃ w, getRes t r = some w ∧ w.state = .opened)
      ∧ (HasType s .district a → t = { s with districts := tmap (fun e : DistrictRec =>
          if e.cfg.map (·.board) = some a ∧ e.state = .tripped then { e with retryTimer := some 5000 } else e) s.districts })
      ∧ (HasType s .turntable a → ∀ g, s.tt.cfg = some g → g.board = a →
        t = { s with tt := { s.tt with lastIndexCount := none } })
      ∧ (HasType s .display a → t = { s with depBoards := tmap (fun e : DepBoard => if e.addr = some a then
          { e with lines := tmap (fun l : BoardLine => { l with mark := true }) e.lines } else e) s.depBoards })
      ∧ (HasType s .detector a ∨ HasType s .point a ∨ HasType s .button a → t = s)

/-! ### Invariants -/

/-- Every step keeps the laws of the track and of the trains: a CLEAR section has no clear delay, timers and causes
stand only in their states, only MOVING points have throws, the queue and the number of throws keep their limits, no two
trains have one head, the turntable has a position exactly in its four states, and the boards' lists hold their
announcements. -/
def Obligations.EveryStepKeepsTheLawsOfTheTrack : Prop :=
  ∀ s t : State, AllSound s → step s = .next t →
    SectionsSound t ∧ DistrictsSound t ∧ PointsSound t ∧ ThrowsSound t ∧ HeadsSound t ∧ PositionSound t ∧ ListsSound t

/-- Every step keeps the laws of the store and of the load: the store's bytes keep their canonical form, a write in
progress is of a page, the loader works in LOADING alone, no channel is used twice, and every DEFINED slot fits the
layout and is alone with its pair. -/
def Obligations.EveryStepKeepsTheLawsOfTheStore : Prop :=
  ∀ s t : State, AllSound s → step s = .next t → StoreSound t ∧ LoadSound t ∧ ChannelsDistinct t ∧ SlotsSound t

/-- Every step keeps the laws of the routes: reservations and entrance signals name each other, an aspect other than
DANGER has a controlled signal and an OPEN reservation behind it, what a route has not released is locked to it in its
role, and nothing is locked, queued, moving or turning for a reservation that is not live. -/
def Obligations.EveryStepKeepsTheLawsOfTheRoutes : Prop :=
  ∀ s t : State, AllSound s → step s = .next t → RoutesSound t ∧ HoldsSound t ∧ LocksSound t

/-- Every step keeps the laws of the signals and of the routes' progress: every signal shows the aspect of R21's table,
and one off DANGER has an OPEN route whose every requirement is met and whose open conditions hold; a route in SETTING
has its cursor at the first requirement that is not met, one in PROVED is not ready to open; a route being released
stops at an element that is not releasable; and the timers run only in their states. -/
def Obligations.EveryStepKeepsTheLawsOfTheSignals : Prop :=
  ∀ s t : State, AllSound s → step s = .next t → AspectsSound t ∧ ReservationsSound t
    ∧ ∀ x, (tget t.signals x).aspect ≠ .danger → ∃ r v d, (tget t.signals x).entranceOf = some r
      ∧ resDef t r = some (v, d) ∧ d.entrance = x ∧ v.state = .opened
      ∧ (∀ e ∈ d.overlap, (tget t.sections e.sec).occ = .clear)
      ∧ (d.cls = .main → ∀ e ∈ d.path, (tget t.sections e.sec).occ = .clear)
      ∧ (∀ e ∈ reqElems v d, ∀ q, e.point = some q →
          (tget t.points q.point).state = posState q.pos ∧ (tget t.points q.point).lock = .res r)
      ∧ ∀ e ∈ d.path, ∀ q, e.deck = some q →
        t.tt.state = .idle ∧ t.tt.deckLock = .held r ∧ ∃ y, t.tt.position = some y ∧ q.accepts y = true

/-- Every step keeps the laws of the turntable: the deck lock's, the move queue's with its limits, and what the
turntable has in each state: a current move while it works, a phase while homing, and nothing while absent or before
READY. -/
def Obligations.EveryStepKeepsTheLawsOfTheTurntable : Prop :=
  ∀ s t : State, AllSound s → step s = .next t → TurntableSound t

/-- Every step keeps the laws of the displays and of the outputs: an announcement is READY exactly while its condition
holds, its linger timer runs in DEPARTED and CANCELLED alone, every line shows what stands at its place, at most 4
reservations have the demonstration owner, and the output images hold the aspects, the enables, the drives and the
lamps. -/
def Obligations.EveryStepKeepsTheLawsOfTheDisplaysAndOutputs : Prop :=
  ∀ s t : State, AllSound s → step s = .next t → AnnouncementsSound t ∧ DemosSound t ∧ OutputsSound t ∧ UnreadSound t

/-- Only the load, a store write and a reset change the configuration, the route table, the store and the load. The
trains change under the commands of the train describer and of the sections alone, the districts under those of the
district supervisor, the field link and the load, the occupancy of the sections under those of the sections, and the
open-day flag under SET OPEN DAY and the resets. A read request, or an event of the panel link alone, changes no table;
and the reservations, the sections and the signals, the points and the throws, the turntable, the buttons, the
announcements and the boards' lines, the field link and the board table but for the output images, and the panel link
and the station table but for the flags, change each under the commands of their own units alone. -/
def Obligations.EachRecordIsChangedByItsOwnCommandsAlone : Prop :=
  (∀ (c : Instr) (s t : State), exec c s = .next t → fixed t = fixed s
        ∨ (∃ straps, c = .chipReset straps) ∨ c = .chipResetAsserted ∨ c = .layoutResetCarriedOut ∨ (∃ st tag, c = .layoutReset st tag)
        ∨ c = .loadHeaderRead ∨ c = .loadConfigBlockRead ∨ c = .loadRouteSlotRead ∨ c = .storeAckTimeout
        ∨ (∃ page, c = .storePageWritten page) ∨ (∃ st tag k p bs, c = .writeConfigBlock st tag k p bs)
        ∨ ∃ st tag k bs, c = .writeRouteSlot st tag k bs)
    ∧ (∀ (c : Instr) (s t : State), exec c s = .next t →
          (worksTrains c = false → t.trains = s.trains)
            ∧ (worksDistricts c = false → t.districts = s.districts)
            ∧ (worksOccupancy c = false → ∀ n, (tget t.sections n).occ = (tget s.sections n).occ
                ∧ (tget t.sections n).clearTimer = (tget s.sections n).clearTimer)
            ∧ ((∀ straps, c ≠ .chipReset straps) → c ≠ .layoutResetCarriedOut → (∀ st tag x, c ≠ .setOpenDay st tag x) →
                t.openDay = s.openDay))
    ∧ (∀ (c : Instr) (s t : State), exec c s = .next t →
          (onlyReads c = true → SameTables s t)
            ∧ (worksRoutes c = false → t.reservations = s.reservations)
            ∧ (worksRoutes c = false → worksItems c = false → t.sections = s.sections ∧ t.signals = s.signals)
            ∧ (worksPoints c = false → t.points = s.points ∧ t.throwQueue = s.throwQueue ∧ t.rechargeTimer = s.rechargeTimer)
            ∧ (worksTurntable c = false → t.tt = s.tt)
            ∧ (worksButtons c = false → t.buttons = s.buttons)
            ∧ (worksBoards c = false → t.announcements = s.announcements ∧ t.depBoards = s.depBoards)
            ∧ (worksField c = false → t.fieldLink = s.fieldLink
                ∧ ∀ a, { tget t.boards a with image := (tget s.boards a).image } = tget s.boards a)
            ∧ (worksPanel c = false → t.panelLink = s.panelLink)
            ∧ (worksPanel c = false → worksItems c = false →
                ∀ x, { tget t.stations x with flags := (tget s.stations x).flags } = tget s.stations x))
end

