-- ==== Sys2Proof/Laws/Tables.lean ====
section
/-! SUPPORT. The laws of fixed tables and of walks over them: reading after a write, the indexes that satisfy a test, and
induction along `forEach`. -/

namespace Sys2Proof

theorem tget_tput {α : Type} {n : Nat} (t : Vector α n) (i j : Fin n) (x : α) :
    tget (tput t i x) j = if i = j then x else tget t j := by
  simp only [tget, tput, Fin.getElem_fin, Vector.getElem_set, Fin.ext_iff]

@[simp] theorem tget_tput_same {α : Type} {n : Nat} (t : Vector α n) (i : Fin n) (x : α) : tget (tput t i x) i = x := by
  simp [tget_tput]

theorem tget_tput_ne {α : Type} {n : Nat} (t : Vector α n) {i j : Fin n} (h : i ≠ j) (x : α) :
    tget (tput t i x) j = tget t j := by
  simp [tget_tput, h]

theorem tget_tupd {α : Type} {n : Nat} (t : Vector α n) (i j : Fin n) (f : α → α) :
    tget (tupd t i f) j = if i = j then f (tget t j) else tget t j := by
  unfold tupd
  rw [tget_tput]
  split
  · next h => rw [h]
  · rfl

@[simp] theorem tget_tupd_same {α : Type} {n : Nat} (t : Vector α n) (i : Fin n) (f : α → α) :
    tget (tupd t i f) i = f (tget t i) := by
  simp [tget_tupd]

theorem tget_tupd_ne {α : Type} {n : Nat} (t : Vector α n) {i j : Fin n} (h : i ≠ j) (f : α → α) :
    tget (tupd t i f) j = tget t j := by
  simp [tget_tupd, h]

@[simp] theorem tget_tmap {α β : Type} {n : Nat} (f : α → β) (t : Vector α n) (i : Fin n) :
    tget (tmap f t) i = f (tget t i) := by
  simp [tget, tmap]

@[simp] theorem tget_tall {α : Type} {n : Nat} (x : α) (i : Fin n) : tget (tall n x) i = x := by
  simp [tget, tall]

/-- Two tables with the same entries are equal. -/
theorem table_ext {α : Type} {n : Nat} {t u : Vector α n} (h : ∀ i, tget t i = tget u i) : t = u := by
  apply Vector.ext
  intro i hi
  exact h ⟨i, hi⟩

/-- A view of a table does not see a change that leaves each entry's view alone. -/
theorem tmap_tupd {α β : Type} {n : Nat} (g : α → β) (t : Vector α n) (i : Fin n) (f : α → α) (h : ∀ e, g (f e) = g e) :
    tmap g (tupd t i f) = tmap g t := by
  apply table_ext
  intro j
  simp only [tget_tmap, tget_tupd]
  split <;> simp [h]

/-- A view of a table does not see a written entry that has the view of the old one. -/
theorem tmap_tput {α β : Type} {n : Nat} (g : α → β) (t : Vector α n) (i : Fin n) (x : α) (h : g x = g (tget t i)) :
    tmap g (tput t i x) = tmap g t := by
  apply table_ext
  intro j
  simp only [tget_tmap, tget_tput]
  split
  · next e => rw [h, e]
  · rfl

theorem tmap_tmap {α β γ : Type} {n : Nat} (g : β → γ) (f : α → β) (t : Vector α n) :
    tmap g (tmap f t) = tmap (fun e => g (f e)) t := by
  apply table_ext
  intro j
  simp

/-- Writing an entry with what it holds changes nothing. -/
theorem tput_self {α : Type} {n : Nat} (t : Vector α n) (i : Fin n) : tput t i (tget t i) = t := by
  apply table_ext
  intro j
  rw [tget_tput]
  split
  · next h => rw [h]
  · rfl

/-- The members of `idsWhere`. -/
@[simp] theorem mem_idsWhere {α : Type} {n : Nat} (t : Vector α n) (p : α → Bool) (i : Fin n) :
    i ∈ idsWhere t p ↔ p (tget t i) = true := by
  unfold idsWhere
  rw [List.mem_filterMap]
  constructor
  · rintro ⟨⟨j, x⟩, hm, hx⟩
    obtain ⟨k, hk, e⟩ := List.mem_iff_getElem.mp hm
    simp only [List.getElem_zip, List.getElem_finRange, Prod.mk.injEq] at e
    split at hx
    · next hp =>
      simp only [Option.some.injEq] at hx
      have hj : j.val = k := by rw [← e.1]; simp
      have : tget t i = x := by
        rw [← e.2, ← hx]
        simp [tget, hj]
      rw [this]; exact hp
    · simp at hx
  · intro hp
    refine ⟨(i, tget t i), ?_, by simp [hp]⟩
    apply List.mem_iff_getElem.mpr
    refine ⟨i.val, by simp, ?_⟩
    simp [tget]

/-- The indexes that satisfy a test, as a filter of all indexes. -/
theorem idsWhere_eq_filter {α : Type} {n : Nat} (t : Vector α n) (p : α → Bool) :
    idsWhere t p = (List.finRange n).filter fun i => p (tget t i) := by
  have hz : (List.finRange n).zip t.toList = (List.finRange n).map fun i => (i, tget t i) := by
    apply List.ext_getElem
    · simp
    · intro k h1 h2
      simp [tget]
  unfold idsWhere
  rw [hz, List.filterMap_map, ← List.filterMap_eq_filter]
  rfl

/-- Writing one entry adds at most one index. -/
theorem idsWhere_tput_length_le {α : Type} {n : Nat} (t : Vector α n) (p : α → Bool) (i : Fin n) (x : α) :
    (idsWhere (tput t i x) p).length ≤ (idsWhere t p).length + 1 := by
  have hsub : idsWhere (tput t i x) p ⊆ i :: idsWhere t p := by
    intro j hj
    rw [mem_idsWhere, tget_tput] at hj
    by_cases e : i = j
    · simp [e]
    · rw [if_neg e] at hj
      simp [hj]
  have hnd : (idsWhere (tput t i x) p).Nodup := by
    rw [idsWhere_eq_filter]
    exact (List.nodup_finRange n).filter _
  have := (hnd.subperm hsub).length_le
  simpa using this

/-- A written entry that fails the test adds no index. -/
theorem idsWhere_tput_length_of_not {α : Type} {n : Nat} (t : Vector α n) (p : α → Bool) (i : Fin n) (x : α)
    (h : p x = true → p (tget t i) = true) : (idsWhere (tput t i x) p).length ≤ (idsWhere t p).length := by
  have hsub : idsWhere (tput t i x) p ⊆ idsWhere t p := by
    intro j hj
    rw [mem_idsWhere, tget_tput] at hj
    rw [mem_idsWhere]
    by_cases e : i = j
    · rw [if_pos e] at hj
      rw [← e]
      exact h hj
    · rw [if_neg e] at hj
      exact hj
  have hnd : (idsWhere (tput t i x) p).Nodup := by
    rw [idsWhere_eq_filter]
    exact (List.nodup_finRange n).filter _
  exact (hnd.subperm hsub).length_le

/-- What holds at the start and is kept by each action holds at the end of a walk. -/
theorem forEach_induct {ι σ : Type} {P : σ → Prop} {f : ι → σ → σ} (h : ∀ i s, P s → P (f i s)) (l : List ι) {s : σ}
    (hs : P s) : P (forEach l f s) := by
  unfold forEach
  induction l generalizing s with
  | nil => exact hs
  | cons i rest ih => exact ih (h i s hs)

/-- The same, with the actions of the list's members alone. -/
theorem forEach_induct_mem {ι σ : Type} {P : σ → Prop} {f : ι → σ → σ} (l : List ι) (h : ∀ i ∈ l, ∀ s, P s → P (f i s))
    {s : σ} (hs : P s) : P (forEach l f s) := by
  unfold forEach
  induction l generalizing s with
  | nil => exact hs
  | cons i rest ih => exact ih (fun j hj => h j (by simp [hj])) (h i (by simp) s hs)

@[simp] theorem forEach_nil {ι σ : Type} (f : ι → σ → σ) (s : σ) : forEach [] f s = s := rfl

@[simp] theorem forEach_cons {ι σ : Type} (i : ι) (l : List ι) (f : ι → σ → σ) (s : σ) :
    forEach (i :: l) f s = forEach l f (f i s) := rfl

end Sys2Proof
end

