-- ==== Sys2Proof/Laws/Aspects.lean ====
section
/-! SUPPORT. What the derivation of an aspect gives: the aspect of R21's table. -/

namespace Sys2Proof.Machine

theorem resDef_of {s : State} {r : ResId} {x : Reservation × RouteDef} (h : resDef s r = some x) :
    getRes s r = some x.1 ∧ slotDef s x.1.slot = some x.2 := by
  unfold resDef at h
  cases g : getRes s r with
  | none => rw [g] at h; cases h
  | some v =>
    rw [g] at h
    cases e : slotDef s v.slot with
    | none => rw [Option.bind_some, e] at h; cases h
    | some d => rw [Option.bind_some, e] at h; cases h; exact ⟨rfl, e⟩

/-- The OPEN route of a signal is the definition that its OPEN reservation has. -/
theorem openRouteFrom_iff {s : State} {x : SignalId} {d : RouteDef} : openRouteFrom s x = some d ↔ OpenFrom s x d := by
  unfold openRouteFrom OpenFrom
  simp only [Option.bind_eq_some_iff]
  constructor
  · rintro ⟨vd, ⟨r, e, h⟩, g⟩
    split at g
    · rename_i o
      cases g
      exact ⟨r, vd.1, e, h, o⟩
    · cases g
  · rintro ⟨r, v, e, h, o⟩
    exact ⟨(v, d), ⟨r, e, h⟩, if_pos o⟩

/-- The derived aspect is the one that R21's table gives. -/
theorem deriveAspect_shows (s : State) (x : SignalId) : ShowsAs s x (deriveAspect s x) := by
  refine ⟨fun h => ?_, fun g d e c o k => ?_, fun g d e c o k b => ?_, fun g d y h e c o k b f => ?_⟩
  · unfold deriveAspect
    split
    · rfl
    · rename_i c hc
      split
      · split
        · rfl
        · rename_i d hd
          rcases h with h | h | h
          · rw [h] at hc; cases hc
          · simp_all
          · exact absurd (openRouteFrom_iff.1 hd) (h d)
      · rfl
  all_goals
    unfold deriveAspect
    rw [e]
    dsimp only
    rw [if_pos c, openRouteFrom_iff.2 o]
    dsimp only
    rw [k]
  · dsimp only
    rw [b]
    rfl
  · dsimp only
    rw [b]
    unfold aspectForExit
    dsimp only
    rw [f]
    dsimp only
    cases h.kind <;> cases (tget s.signals y).aspect <;> rfl

/-- A signal that is not configured is derived to DANGER. -/
theorem deriveAspect_absent {s : State} {x : SignalId} (h : (tget s.signals x).cfg = none) : deriveAspect s x = .danger := by
  unfold deriveAspect
  rw [h]

end Sys2Proof.Machine
end

