-- ==== Sys2Proof/Laws/State.lean ====
section
/-! SUPPORT. One lemma for each field and each named update of the state, true by rfl: the field that the update writes, and
every field that it leaves alone. -/

namespace Sys2Proof.Machine

/-! ### setImage -/

@[simp] theorem setImage_boards (a : BoardIdx) (f : OutputImage → OutputImage) (s : State) : (setImage a f s).boards = tupd s.boards a fun b => { b with image := f b.image } := rfl
@[simp] theorem setImage_sections (a : BoardIdx) (f : OutputImage → OutputImage) (s : State) : (setImage a f s).sections = s.sections := rfl
@[simp] theorem setImage_districts (a : BoardIdx) (f : OutputImage → OutputImage) (s : State) : (setImage a f s).districts = s.districts := rfl
@[simp] theorem setImage_signals (a : BoardIdx) (f : OutputImage → OutputImage) (s : State) : (setImage a f s).signals = s.signals := rfl
@[simp] theorem setImage_points (a : BoardIdx) (f : OutputImage → OutputImage) (s : State) : (setImage a f s).points = s.points := rfl
@[simp] theorem setImage_throwQueue (a : BoardIdx) (f : OutputImage → OutputImage) (s : State) : (setImage a f s).throwQueue = s.throwQueue := rfl
@[simp] theorem setImage_rechargeTimer (a : BoardIdx) (f : OutputImage → OutputImage) (s : State) : (setImage a f s).rechargeTimer = s.rechargeTimer := rfl
@[simp] theorem setImage_slots (a : BoardIdx) (f : OutputImage → OutputImage) (s : State) : (setImage a f s).slots = s.slots := rfl
@[simp] theorem setImage_reservations (a : BoardIdx) (f : OutputImage → OutputImage) (s : State) : (setImage a f s).reservations = s.reservations := rfl
@[simp] theorem setImage_trains (a : BoardIdx) (f : OutputImage → OutputImage) (s : State) : (setImage a f s).trains = s.trains := rfl
@[simp] theorem setImage_tt (a : BoardIdx) (f : OutputImage → OutputImage) (s : State) : (setImage a f s).tt = s.tt := rfl
@[simp] theorem setImage_announcements (a : BoardIdx) (f : OutputImage → OutputImage) (s : State) : (setImage a f s).announcements = s.announcements := rfl
@[simp] theorem setImage_depBoards (a : BoardIdx) (f : OutputImage → OutputImage) (s : State) : (setImage a f s).depBoards = s.depBoards := rfl
@[simp] theorem setImage_openDay (a : BoardIdx) (f : OutputImage → OutputImage) (s : State) : (setImage a f s).openDay = s.openDay := rfl
@[simp] theorem setImage_buttons (a : BoardIdx) (f : OutputImage → OutputImage) (s : State) : (setImage a f s).buttons = s.buttons := rfl
@[simp] theorem setImage_fieldLink (a : BoardIdx) (f : OutputImage → OutputImage) (s : State) : (setImage a f s).fieldLink = s.fieldLink := rfl
@[simp] theorem setImage_stations (a : BoardIdx) (f : OutputImage → OutputImage) (s : State) : (setImage a f s).stations = s.stations := rfl
@[simp] theorem setImage_stationsRead (a : BoardIdx) (f : OutputImage → OutputImage) (s : State) : (setImage a f s).stationsRead = s.stationsRead := rfl
@[simp] theorem setImage_panelLink (a : BoardIdx) (f : OutputImage → OutputImage) (s : State) : (setImage a f s).panelLink = s.panelLink := rfl
@[simp] theorem setImage_loadState (a : BoardIdx) (f : OutputImage → OutputImage) (s : State) : (setImage a f s).loadState = s.loadState := rfl
@[simp] theorem setImage_linkRate (a : BoardIdx) (f : OutputImage → OutputImage) (s : State) : (setImage a f s).linkRate = s.linkRate := rfl
@[simp] theorem setImage_storeDamaged (a : BoardIdx) (f : OutputImage → OutputImage) (s : State) : (setImage a f s).storeDamaged = s.storeDamaged := rfl
@[simp] theorem setImage_loader (a : BoardIdx) (f : OutputImage → OutputImage) (s : State) : (setImage a f s).loader = s.loader := rfl
@[simp] theorem setImage_imageVersion (a : BoardIdx) (f : OutputImage → OutputImage) (s : State) : (setImage a f s).imageVersion = s.imageVersion := rfl
@[simp] theorem setImage_timing (a : BoardIdx) (f : OutputImage → OutputImage) (s : State) : (setImage a f s).timing = s.timing := rfl
@[simp] theorem setImage_write (a : BoardIdx) (f : OutputImage → OutputImage) (s : State) : (setImage a f s).write = s.write := rfl
@[simp] theorem setImage_lastStoreResult (a : BoardIdx) (f : OutputImage → OutputImage) (s : State) : (setImage a f s).lastStoreResult = s.lastStoreResult := rfl
@[simp] theorem setImage_layoutResetDue (a : BoardIdx) (f : OutputImage → OutputImage) (s : State) : (setImage a f s).layoutResetDue = s.layoutResetDue := rfl
@[simp] theorem setImage_resetHeld (a : BoardIdx) (f : OutputImage → OutputImage) (s : State) : (setImage a f s).resetHeld = s.resetHeld := rfl
@[simp] theorem setImage_store (a : BoardIdx) (f : OutputImage → OutputImage) (s : State) : (setImage a f s).store = s.store := rfl
@[simp] theorem setImage_torn (a : BoardIdx) (f : OutputImage → OutputImage) (s : State) : (setImage a f s).torn = s.torn := rfl
@[simp] theorem setImage_freeCtr (a : BoardIdx) (f : OutputImage → OutputImage) (s : State) : (setImage a f s).freeCtr = s.freeCtr := rfl
@[simp] theorem setImage_pending (a : BoardIdx) (f : OutputImage → OutputImage) (s : State) : (setImage a f s).pending = s.pending := rfl

/-! ### setDrive -/

@[simp] theorem setDrive_sections (a : BoardIdx) (c : Channel) (d : PointDrive) (s : State) : (setDrive a c d s).sections = s.sections := rfl
@[simp] theorem setDrive_districts (a : BoardIdx) (c : Channel) (d : PointDrive) (s : State) : (setDrive a c d s).districts = s.districts := rfl
@[simp] theorem setDrive_signals (a : BoardIdx) (c : Channel) (d : PointDrive) (s : State) : (setDrive a c d s).signals = s.signals := rfl
@[simp] theorem setDrive_points (a : BoardIdx) (c : Channel) (d : PointDrive) (s : State) : (setDrive a c d s).points = s.points := rfl
@[simp] theorem setDrive_throwQueue (a : BoardIdx) (c : Channel) (d : PointDrive) (s : State) : (setDrive a c d s).throwQueue = s.throwQueue := rfl
@[simp] theorem setDrive_rechargeTimer (a : BoardIdx) (c : Channel) (d : PointDrive) (s : State) : (setDrive a c d s).rechargeTimer = s.rechargeTimer := rfl
@[simp] theorem setDrive_slots (a : BoardIdx) (c : Channel) (d : PointDrive) (s : State) : (setDrive a c d s).slots = s.slots := rfl
@[simp] theorem setDrive_reservations (a : BoardIdx) (c : Channel) (d : PointDrive) (s : State) : (setDrive a c d s).reservations = s.reservations := rfl
@[simp] theorem setDrive_trains (a : BoardIdx) (c : Channel) (d : PointDrive) (s : State) : (setDrive a c d s).trains = s.trains := rfl
@[simp] theorem setDrive_tt (a : BoardIdx) (c : Channel) (d : PointDrive) (s : State) : (setDrive a c d s).tt = s.tt := rfl
@[simp] theorem setDrive_announcements (a : BoardIdx) (c : Channel) (d : PointDrive) (s : State) : (setDrive a c d s).announcements = s.announcements := rfl
@[simp] theorem setDrive_depBoards (a : BoardIdx) (c : Channel) (d : PointDrive) (s : State) : (setDrive a c d s).depBoards = s.depBoards := rfl
@[simp] theorem setDrive_openDay (a : BoardIdx) (c : Channel) (d : PointDrive) (s : State) : (setDrive a c d s).openDay = s.openDay := rfl
@[simp] theorem setDrive_buttons (a : BoardIdx) (c : Channel) (d : PointDrive) (s : State) : (setDrive a c d s).buttons = s.buttons := rfl
@[simp] theorem setDrive_fieldLink (a : BoardIdx) (c : Channel) (d : PointDrive) (s : State) : (setDrive a c d s).fieldLink = s.fieldLink := rfl
@[simp] theorem setDrive_stations (a : BoardIdx) (c : Channel) (d : PointDrive) (s : State) : (setDrive a c d s).stations = s.stations := rfl
@[simp] theorem setDrive_stationsRead (a : BoardIdx) (c : Channel) (d : PointDrive) (s : State) : (setDrive a c d s).stationsRead = s.stationsRead := rfl
@[simp] theorem setDrive_panelLink (a : BoardIdx) (c : Channel) (d : PointDrive) (s : State) : (setDrive a c d s).panelLink = s.panelLink := rfl
@[simp] theorem setDrive_loadState (a : BoardIdx) (c : Channel) (d : PointDrive) (s : State) : (setDrive a c d s).loadState = s.loadState := rfl
@[simp] theorem setDrive_linkRate (a : BoardIdx) (c : Channel) (d : PointDrive) (s : State) : (setDrive a c d s).linkRate = s.linkRate := rfl
@[simp] theorem setDrive_storeDamaged (a : BoardIdx) (c : Channel) (d : PointDrive) (s : State) : (setDrive a c d s).storeDamaged = s.storeDamaged := rfl
@[simp] theorem setDrive_loader (a : BoardIdx) (c : Channel) (d : PointDrive) (s : State) : (setDrive a c d s).loader = s.loader := rfl
@[simp] theorem setDrive_imageVersion (a : BoardIdx) (c : Channel) (d : PointDrive) (s : State) : (setDrive a c d s).imageVersion = s.imageVersion := rfl
@[simp] theorem setDrive_timing (a : BoardIdx) (c : Channel) (d : PointDrive) (s : State) : (setDrive a c d s).timing = s.timing := rfl
@[simp] theorem setDrive_write (a : BoardIdx) (c : Channel) (d : PointDrive) (s : State) : (setDrive a c d s).write = s.write := rfl
@[simp] theorem setDrive_lastStoreResult (a : BoardIdx) (c : Channel) (d : PointDrive) (s : State) : (setDrive a c d s).lastStoreResult = s.lastStoreResult := rfl
@[simp] theorem setDrive_layoutResetDue (a : BoardIdx) (c : Channel) (d : PointDrive) (s : State) : (setDrive a c d s).layoutResetDue = s.layoutResetDue := rfl
@[simp] theorem setDrive_resetHeld (a : BoardIdx) (c : Channel) (d : PointDrive) (s : State) : (setDrive a c d s).resetHeld = s.resetHeld := rfl
@[simp] theorem setDrive_store (a : BoardIdx) (c : Channel) (d : PointDrive) (s : State) : (setDrive a c d s).store = s.store := rfl
@[simp] theorem setDrive_torn (a : BoardIdx) (c : Channel) (d : PointDrive) (s : State) : (setDrive a c d s).torn = s.torn := rfl
@[simp] theorem setDrive_freeCtr (a : BoardIdx) (c : Channel) (d : PointDrive) (s : State) : (setDrive a c d s).freeCtr = s.freeCtr := rfl
@[simp] theorem setDrive_pending (a : BoardIdx) (c : Channel) (d : PointDrive) (s : State) : (setDrive a c d s).pending = s.pending := rfl

/-! ### setHead -/

@[simp] theorem setHead_sections (a : BoardIdx) (c : Channel) (x : Aspect) (s : State) : (setHead a c x s).sections = s.sections := rfl
@[simp] theorem setHead_districts (a : BoardIdx) (c : Channel) (x : Aspect) (s : State) : (setHead a c x s).districts = s.districts := rfl
@[simp] theorem setHead_signals (a : BoardIdx) (c : Channel) (x : Aspect) (s : State) : (setHead a c x s).signals = s.signals := rfl
@[simp] theorem setHead_points (a : BoardIdx) (c : Channel) (x : Aspect) (s : State) : (setHead a c x s).points = s.points := rfl
@[simp] theorem setHead_throwQueue (a : BoardIdx) (c : Channel) (x : Aspect) (s : State) : (setHead a c x s).throwQueue = s.throwQueue := rfl
@[simp] theorem setHead_rechargeTimer (a : BoardIdx) (c : Channel) (x : Aspect) (s : State) : (setHead a c x s).rechargeTimer = s.rechargeTimer := rfl
@[simp] theorem setHead_slots (a : BoardIdx) (c : Channel) (x : Aspect) (s : State) : (setHead a c x s).slots = s.slots := rfl
@[simp] theorem setHead_reservations (a : BoardIdx) (c : Channel) (x : Aspect) (s : State) : (setHead a c x s).reservations = s.reservations := rfl
@[simp] theorem setHead_trains (a : BoardIdx) (c : Channel) (x : Aspect) (s : State) : (setHead a c x s).trains = s.trains := rfl
@[simp] theorem setHead_tt (a : BoardIdx) (c : Channel) (x : Aspect) (s : State) : (setHead a c x s).tt = s.tt := rfl
@[simp] theorem setHead_announcements (a : BoardIdx) (c : Channel) (x : Aspect) (s : State) : (setHead a c x s).announcements = s.announcements := rfl
@[simp] theorem setHead_depBoards (a : BoardIdx) (c : Channel) (x : Aspect) (s : State) : (setHead a c x s).depBoards = s.depBoards := rfl
@[simp] theorem setHead_openDay (a : BoardIdx) (c : Channel) (x : Aspect) (s : State) : (setHead a c x s).openDay = s.openDay := rfl
@[simp] theorem setHead_buttons (a : BoardIdx) (c : Channel) (x : Aspect) (s : State) : (setHead a c x s).buttons = s.buttons := rfl
@[simp] theorem setHead_fieldLink (a : BoardIdx) (c : Channel) (x : Aspect) (s : State) : (setHead a c x s).fieldLink = s.fieldLink := rfl
@[simp] theorem setHead_stations (a : BoardIdx) (c : Channel) (x : Aspect) (s : State) : (setHead a c x s).stations = s.stations := rfl
@[simp] theorem setHead_stationsRead (a : BoardIdx) (c : Channel) (x : Aspect) (s : State) : (setHead a c x s).stationsRead = s.stationsRead := rfl
@[simp] theorem setHead_panelLink (a : BoardIdx) (c : Channel) (x : Aspect) (s : State) : (setHead a c x s).panelLink = s.panelLink := rfl
@[simp] theorem setHead_loadState (a : BoardIdx) (c : Channel) (x : Aspect) (s : State) : (setHead a c x s).loadState = s.loadState := rfl
@[simp] theorem setHead_linkRate (a : BoardIdx) (c : Channel) (x : Aspect) (s : State) : (setHead a c x s).linkRate = s.linkRate := rfl
@[simp] theorem setHead_storeDamaged (a : BoardIdx) (c : Channel) (x : Aspect) (s : State) : (setHead a c x s).storeDamaged = s.storeDamaged := rfl
@[simp] theorem setHead_loader (a : BoardIdx) (c : Channel) (x : Aspect) (s : State) : (setHead a c x s).loader = s.loader := rfl
@[simp] theorem setHead_imageVersion (a : BoardIdx) (c : Channel) (x : Aspect) (s : State) : (setHead a c x s).imageVersion = s.imageVersion := rfl
@[simp] theorem setHead_timing (a : BoardIdx) (c : Channel) (x : Aspect) (s : State) : (setHead a c x s).timing = s.timing := rfl
@[simp] theorem setHead_write (a : BoardIdx) (c : Channel) (x : Aspect) (s : State) : (setHead a c x s).write = s.write := rfl
@[simp] theorem setHead_lastStoreResult (a : BoardIdx) (c : Channel) (x : Aspect) (s : State) : (setHead a c x s).lastStoreResult = s.lastStoreResult := rfl
@[simp] theorem setHead_layoutResetDue (a : BoardIdx) (c : Channel) (x : Aspect) (s : State) : (setHead a c x s).layoutResetDue = s.layoutResetDue := rfl
@[simp] theorem setHead_resetHeld (a : BoardIdx) (c : Channel) (x : Aspect) (s : State) : (setHead a c x s).resetHeld = s.resetHeld := rfl
@[simp] theorem setHead_store (a : BoardIdx) (c : Channel) (x : Aspect) (s : State) : (setHead a c x s).store = s.store := rfl
@[simp] theorem setHead_torn (a : BoardIdx) (c : Channel) (x : Aspect) (s : State) : (setHead a c x s).torn = s.torn := rfl
@[simp] theorem setHead_freeCtr (a : BoardIdx) (c : Channel) (x : Aspect) (s : State) : (setHead a c x s).freeCtr = s.freeCtr := rfl
@[simp] theorem setHead_pending (a : BoardIdx) (c : Channel) (x : Aspect) (s : State) : (setHead a c x s).pending = s.pending := rfl

/-! ### setEnable -/

@[simp] theorem setEnable_sections (a : BoardIdx) (c : Channel) (on : Bool) (s : State) : (setEnable a c on s).sections = s.sections := rfl
@[simp] theorem setEnable_districts (a : BoardIdx) (c : Channel) (on : Bool) (s : State) : (setEnable a c on s).districts = s.districts := rfl
@[simp] theorem setEnable_signals (a : BoardIdx) (c : Channel) (on : Bool) (s : State) : (setEnable a c on s).signals = s.signals := rfl
@[simp] theorem setEnable_points (a : BoardIdx) (c : Channel) (on : Bool) (s : State) : (setEnable a c on s).points = s.points := rfl
@[simp] theorem setEnable_throwQueue (a : BoardIdx) (c : Channel) (on : Bool) (s : State) : (setEnable a c on s).throwQueue = s.throwQueue := rfl
@[simp] theorem setEnable_rechargeTimer (a : BoardIdx) (c : Channel) (on : Bool) (s : State) : (setEnable a c on s).rechargeTimer = s.rechargeTimer := rfl
@[simp] theorem setEnable_slots (a : BoardIdx) (c : Channel) (on : Bool) (s : State) : (setEnable a c on s).slots = s.slots := rfl
@[simp] theorem setEnable_reservations (a : BoardIdx) (c : Channel) (on : Bool) (s : State) : (setEnable a c on s).reservations = s.reservations := rfl
@[simp] theorem setEnable_trains (a : BoardIdx) (c : Channel) (on : Bool) (s : State) : (setEnable a c on s).trains = s.trains := rfl
@[simp] theorem setEnable_tt (a : BoardIdx) (c : Channel) (on : Bool) (s : State) : (setEnable a c on s).tt = s.tt := rfl
@[simp] theorem setEnable_announcements (a : BoardIdx) (c : Channel) (on : Bool) (s : State) : (setEnable a c on s).announcements = s.announcements := rfl
@[simp] theorem setEnable_depBoards (a : BoardIdx) (c : Channel) (on : Bool) (s : State) : (setEnable a c on s).depBoards = s.depBoards := rfl
@[simp] theorem setEnable_openDay (a : BoardIdx) (c : Channel) (on : Bool) (s : State) : (setEnable a c on s).openDay = s.openDay := rfl
@[simp] theorem setEnable_buttons (a : BoardIdx) (c : Channel) (on : Bool) (s : State) : (setEnable a c on s).buttons = s.buttons := rfl
@[simp] theorem setEnable_fieldLink (a : BoardIdx) (c : Channel) (on : Bool) (s : State) : (setEnable a c on s).fieldLink = s.fieldLink := rfl
@[simp] theorem setEnable_stations (a : BoardIdx) (c : Channel) (on : Bool) (s : State) : (setEnable a c on s).stations = s.stations := rfl
@[simp] theorem setEnable_stationsRead (a : BoardIdx) (c : Channel) (on : Bool) (s : State) : (setEnable a c on s).stationsRead = s.stationsRead := rfl
@[simp] theorem setEnable_panelLink (a : BoardIdx) (c : Channel) (on : Bool) (s : State) : (setEnable a c on s).panelLink = s.panelLink := rfl
@[simp] theorem setEnable_loadState (a : BoardIdx) (c : Channel) (on : Bool) (s : State) : (setEnable a c on s).loadState = s.loadState := rfl
@[simp] theorem setEnable_linkRate (a : BoardIdx) (c : Channel) (on : Bool) (s : State) : (setEnable a c on s).linkRate = s.linkRate := rfl
@[simp] theorem setEnable_storeDamaged (a : BoardIdx) (c : Channel) (on : Bool) (s : State) : (setEnable a c on s).storeDamaged = s.storeDamaged := rfl
@[simp] theorem setEnable_loader (a : BoardIdx) (c : Channel) (on : Bool) (s : State) : (setEnable a c on s).loader = s.loader := rfl
@[simp] theorem setEnable_imageVersion (a : BoardIdx) (c : Channel) (on : Bool) (s : State) : (setEnable a c on s).imageVersion = s.imageVersion := rfl
@[simp] theorem setEnable_timing (a : BoardIdx) (c : Channel) (on : Bool) (s : State) : (setEnable a c on s).timing = s.timing := rfl
@[simp] theorem setEnable_write (a : BoardIdx) (c : Channel) (on : Bool) (s : State) : (setEnable a c on s).write = s.write := rfl
@[simp] theorem setEnable_lastStoreResult (a : BoardIdx) (c : Channel) (on : Bool) (s : State) : (setEnable a c on s).lastStoreResult = s.lastStoreResult := rfl
@[simp] theorem setEnable_layoutResetDue (a : BoardIdx) (c : Channel) (on : Bool) (s : State) : (setEnable a c on s).layoutResetDue = s.layoutResetDue := rfl
@[simp] theorem setEnable_resetHeld (a : BoardIdx) (c : Channel) (on : Bool) (s : State) : (setEnable a c on s).resetHeld = s.resetHeld := rfl
@[simp] theorem setEnable_store (a : BoardIdx) (c : Channel) (on : Bool) (s : State) : (setEnable a c on s).store = s.store := rfl
@[simp] theorem setEnable_torn (a : BoardIdx) (c : Channel) (on : Bool) (s : State) : (setEnable a c on s).torn = s.torn := rfl
@[simp] theorem setEnable_freeCtr (a : BoardIdx) (c : Channel) (on : Bool) (s : State) : (setEnable a c on s).freeCtr = s.freeCtr := rfl
@[simp] theorem setEnable_pending (a : BoardIdx) (c : Channel) (on : Bool) (s : State) : (setEnable a c on s).pending = s.pending := rfl

/-! ### setLamp -/

@[simp] theorem setLamp_sections (a : BoardIdx) (c : Channel) (x : ButtonState) (s : State) : (setLamp a c x s).sections = s.sections := rfl
@[simp] theorem setLamp_districts (a : BoardIdx) (c : Channel) (x : ButtonState) (s : State) : (setLamp a c x s).districts = s.districts := rfl
@[simp] theorem setLamp_signals (a : BoardIdx) (c : Channel) (x : ButtonState) (s : State) : (setLamp a c x s).signals = s.signals := rfl
@[simp] theorem setLamp_points (a : BoardIdx) (c : Channel) (x : ButtonState) (s : State) : (setLamp a c x s).points = s.points := rfl
@[simp] theorem setLamp_throwQueue (a : BoardIdx) (c : Channel) (x : ButtonState) (s : State) : (setLamp a c x s).throwQueue = s.throwQueue := rfl
@[simp] theorem setLamp_rechargeTimer (a : BoardIdx) (c : Channel) (x : ButtonState) (s : State) : (setLamp a c x s).rechargeTimer = s.rechargeTimer := rfl
@[simp] theorem setLamp_slots (a : BoardIdx) (c : Channel) (x : ButtonState) (s : State) : (setLamp a c x s).slots = s.slots := rfl
@[simp] theorem setLamp_reservations (a : BoardIdx) (c : Channel) (x : ButtonState) (s : State) : (setLamp a c x s).reservations = s.reservations := rfl
@[simp] theorem setLamp_trains (a : BoardIdx) (c : Channel) (x : ButtonState) (s : State) : (setLamp a c x s).trains = s.trains := rfl
@[simp] theorem setLamp_tt (a : BoardIdx) (c : Channel) (x : ButtonState) (s : State) : (setLamp a c x s).tt = s.tt := rfl
@[simp] theorem setLamp_announcements (a : BoardIdx) (c : Channel) (x : ButtonState) (s : State) : (setLamp a c x s).announcements = s.announcements := rfl
@[simp] theorem setLamp_depBoards (a : BoardIdx) (c : Channel) (x : ButtonState) (s : State) : (setLamp a c x s).depBoards = s.depBoards := rfl
@[simp] theorem setLamp_openDay (a : BoardIdx) (c : Channel) (x : ButtonState) (s : State) : (setLamp a c x s).openDay = s.openDay := rfl
@[simp] theorem setLamp_buttons (a : BoardIdx) (c : Channel) (x : ButtonState) (s : State) : (setLamp a c x s).buttons = s.buttons := rfl
@[simp] theorem setLamp_fieldLink (a : BoardIdx) (c : Channel) (x : ButtonState) (s : State) : (setLamp a c x s).fieldLink = s.fieldLink := rfl
@[simp] theorem setLamp_stations (a : BoardIdx) (c : Channel) (x : ButtonState) (s : State) : (setLamp a c x s).stations = s.stations := rfl
@[simp] theorem setLamp_stationsRead (a : BoardIdx) (c : Channel) (x : ButtonState) (s : State) : (setLamp a c x s).stationsRead = s.stationsRead := rfl
@[simp] theorem setLamp_panelLink (a : BoardIdx) (c : Channel) (x : ButtonState) (s : State) : (setLamp a c x s).panelLink = s.panelLink := rfl
@[simp] theorem setLamp_loadState (a : BoardIdx) (c : Channel) (x : ButtonState) (s : State) : (setLamp a c x s).loadState = s.loadState := rfl
@[simp] theorem setLamp_linkRate (a : BoardIdx) (c : Channel) (x : ButtonState) (s : State) : (setLamp a c x s).linkRate = s.linkRate := rfl
@[simp] theorem setLamp_storeDamaged (a : BoardIdx) (c : Channel) (x : ButtonState) (s : State) : (setLamp a c x s).storeDamaged = s.storeDamaged := rfl
@[simp] theorem setLamp_loader (a : BoardIdx) (c : Channel) (x : ButtonState) (s : State) : (setLamp a c x s).loader = s.loader := rfl
@[simp] theorem setLamp_imageVersion (a : BoardIdx) (c : Channel) (x : ButtonState) (s : State) : (setLamp a c x s).imageVersion = s.imageVersion := rfl
@[simp] theorem setLamp_timing (a : BoardIdx) (c : Channel) (x : ButtonState) (s : State) : (setLamp a c x s).timing = s.timing := rfl
@[simp] theorem setLamp_write (a : BoardIdx) (c : Channel) (x : ButtonState) (s : State) : (setLamp a c x s).write = s.write := rfl
@[simp] theorem setLamp_lastStoreResult (a : BoardIdx) (c : Channel) (x : ButtonState) (s : State) : (setLamp a c x s).lastStoreResult = s.lastStoreResult := rfl
@[simp] theorem setLamp_layoutResetDue (a : BoardIdx) (c : Channel) (x : ButtonState) (s : State) : (setLamp a c x s).layoutResetDue = s.layoutResetDue := rfl
@[simp] theorem setLamp_resetHeld (a : BoardIdx) (c : Channel) (x : ButtonState) (s : State) : (setLamp a c x s).resetHeld = s.resetHeld := rfl
@[simp] theorem setLamp_store (a : BoardIdx) (c : Channel) (x : ButtonState) (s : State) : (setLamp a c x s).store = s.store := rfl
@[simp] theorem setLamp_torn (a : BoardIdx) (c : Channel) (x : ButtonState) (s : State) : (setLamp a c x s).torn = s.torn := rfl
@[simp] theorem setLamp_freeCtr (a : BoardIdx) (c : Channel) (x : ButtonState) (s : State) : (setLamp a c x s).freeCtr = s.freeCtr := rfl
@[simp] theorem setLamp_pending (a : BoardIdx) (c : Channel) (x : ButtonState) (s : State) : (setLamp a c x s).pending = s.pending := rfl

/-! ### setRes -/

@[simp] theorem setRes_reservations (r : ResId) (x : Option Reservation) (s : State) : (setRes r x s).reservations = tput s.reservations r x := rfl
@[simp] theorem setRes_sections (r : ResId) (x : Option Reservation) (s : State) : (setRes r x s).sections = s.sections := rfl
@[simp] theorem setRes_districts (r : ResId) (x : Option Reservation) (s : State) : (setRes r x s).districts = s.districts := rfl
@[simp] theorem setRes_signals (r : ResId) (x : Option Reservation) (s : State) : (setRes r x s).signals = s.signals := rfl
@[simp] theorem setRes_points (r : ResId) (x : Option Reservation) (s : State) : (setRes r x s).points = s.points := rfl
@[simp] theorem setRes_throwQueue (r : ResId) (x : Option Reservation) (s : State) : (setRes r x s).throwQueue = s.throwQueue := rfl
@[simp] theorem setRes_rechargeTimer (r : ResId) (x : Option Reservation) (s : State) : (setRes r x s).rechargeTimer = s.rechargeTimer := rfl
@[simp] theorem setRes_slots (r : ResId) (x : Option Reservation) (s : State) : (setRes r x s).slots = s.slots := rfl
@[simp] theorem setRes_trains (r : ResId) (x : Option Reservation) (s : State) : (setRes r x s).trains = s.trains := rfl
@[simp] theorem setRes_tt (r : ResId) (x : Option Reservation) (s : State) : (setRes r x s).tt = s.tt := rfl
@[simp] theorem setRes_announcements (r : ResId) (x : Option Reservation) (s : State) : (setRes r x s).announcements = s.announcements := rfl
@[simp] theorem setRes_depBoards (r : ResId) (x : Option Reservation) (s : State) : (setRes r x s).depBoards = s.depBoards := rfl
@[simp] theorem setRes_openDay (r : ResId) (x : Option Reservation) (s : State) : (setRes r x s).openDay = s.openDay := rfl
@[simp] theorem setRes_buttons (r : ResId) (x : Option Reservation) (s : State) : (setRes r x s).buttons = s.buttons := rfl
@[simp] theorem setRes_boards (r : ResId) (x : Option Reservation) (s : State) : (setRes r x s).boards = s.boards := rfl
@[simp] theorem setRes_fieldLink (r : ResId) (x : Option Reservation) (s : State) : (setRes r x s).fieldLink = s.fieldLink := rfl
@[simp] theorem setRes_stations (r : ResId) (x : Option Reservation) (s : State) : (setRes r x s).stations = s.stations := rfl
@[simp] theorem setRes_stationsRead (r : ResId) (x : Option Reservation) (s : State) : (setRes r x s).stationsRead = s.stationsRead := rfl
@[simp] theorem setRes_panelLink (r : ResId) (x : Option Reservation) (s : State) : (setRes r x s).panelLink = s.panelLink := rfl
@[simp] theorem setRes_loadState (r : ResId) (x : Option Reservation) (s : State) : (setRes r x s).loadState = s.loadState := rfl
@[simp] theorem setRes_linkRate (r : ResId) (x : Option Reservation) (s : State) : (setRes r x s).linkRate = s.linkRate := rfl
@[simp] theorem setRes_storeDamaged (r : ResId) (x : Option Reservation) (s : State) : (setRes r x s).storeDamaged = s.storeDamaged := rfl
@[simp] theorem setRes_loader (r : ResId) (x : Option Reservation) (s : State) : (setRes r x s).loader = s.loader := rfl
@[simp] theorem setRes_imageVersion (r : ResId) (x : Option Reservation) (s : State) : (setRes r x s).imageVersion = s.imageVersion := rfl
@[simp] theorem setRes_timing (r : ResId) (x : Option Reservation) (s : State) : (setRes r x s).timing = s.timing := rfl
@[simp] theorem setRes_write (r : ResId) (x : Option Reservation) (s : State) : (setRes r x s).write = s.write := rfl
@[simp] theorem setRes_lastStoreResult (r : ResId) (x : Option Reservation) (s : State) : (setRes r x s).lastStoreResult = s.lastStoreResult := rfl
@[simp] theorem setRes_layoutResetDue (r : ResId) (x : Option Reservation) (s : State) : (setRes r x s).layoutResetDue = s.layoutResetDue := rfl
@[simp] theorem setRes_resetHeld (r : ResId) (x : Option Reservation) (s : State) : (setRes r x s).resetHeld = s.resetHeld := rfl
@[simp] theorem setRes_store (r : ResId) (x : Option Reservation) (s : State) : (setRes r x s).store = s.store := rfl
@[simp] theorem setRes_torn (r : ResId) (x : Option Reservation) (s : State) : (setRes r x s).torn = s.torn := rfl
@[simp] theorem setRes_freeCtr (r : ResId) (x : Option Reservation) (s : State) : (setRes r x s).freeCtr = s.freeCtr := rfl
@[simp] theorem setRes_pending (r : ResId) (x : Option Reservation) (s : State) : (setRes r x s).pending = s.pending := rfl

/-! ### updRes -/

@[simp] theorem updRes_reservations (r : ResId) (f : Reservation → Reservation) (s : State) : (updRes r f s).reservations = tupd s.reservations r (Option.map f) := rfl
@[simp] theorem updRes_sections (r : ResId) (f : Reservation → Reservation) (s : State) : (updRes r f s).sections = s.sections := rfl
@[simp] theorem updRes_districts (r : ResId) (f : Reservation → Reservation) (s : State) : (updRes r f s).districts = s.districts := rfl
@[simp] theorem updRes_signals (r : ResId) (f : Reservation → Reservation) (s : State) : (updRes r f s).signals = s.signals := rfl
@[simp] theorem updRes_points (r : ResId) (f : Reservation → Reservation) (s : State) : (updRes r f s).points = s.points := rfl
@[simp] theorem updRes_throwQueue (r : ResId) (f : Reservation → Reservation) (s : State) : (updRes r f s).throwQueue = s.throwQueue := rfl
@[simp] theorem updRes_rechargeTimer (r : ResId) (f : Reservation → Reservation) (s : State) : (updRes r f s).rechargeTimer = s.rechargeTimer := rfl
@[simp] theorem updRes_slots (r : ResId) (f : Reservation → Reservation) (s : State) : (updRes r f s).slots = s.slots := rfl
@[simp] theorem updRes_trains (r : ResId) (f : Reservation → Reservation) (s : State) : (updRes r f s).trains = s.trains := rfl
@[simp] theorem updRes_tt (r : ResId) (f : Reservation → Reservation) (s : State) : (updRes r f s).tt = s.tt := rfl
@[simp] theorem updRes_announcements (r : ResId) (f : Reservation → Reservation) (s : State) : (updRes r f s).announcements = s.announcements := rfl
@[simp] theorem updRes_depBoards (r : ResId) (f : Reservation → Reservation) (s : State) : (updRes r f s).depBoards = s.depBoards := rfl
@[simp] theorem updRes_openDay (r : ResId) (f : Reservation → Reservation) (s : State) : (updRes r f s).openDay = s.openDay := rfl
@[simp] theorem updRes_buttons (r : ResId) (f : Reservation → Reservation) (s : State) : (updRes r f s).buttons = s.buttons := rfl
@[simp] theorem updRes_boards (r : ResId) (f : Reservation → Reservation) (s : State) : (updRes r f s).boards = s.boards := rfl
@[simp] theorem updRes_fieldLink (r : ResId) (f : Reservation → Reservation) (s : State) : (updRes r f s).fieldLink = s.fieldLink := rfl
@[simp] theorem updRes_stations (r : ResId) (f : Reservation → Reservation) (s : State) : (updRes r f s).stations = s.stations := rfl
@[simp] theorem updRes_stationsRead (r : ResId) (f : Reservation → Reservation) (s : State) : (updRes r f s).stationsRead = s.stationsRead := rfl
@[simp] theorem updRes_panelLink (r : ResId) (f : Reservation → Reservation) (s : State) : (updRes r f s).panelLink = s.panelLink := rfl
@[simp] theorem updRes_loadState (r : ResId) (f : Reservation → Reservation) (s : State) : (updRes r f s).loadState = s.loadState := rfl
@[simp] theorem updRes_linkRate (r : ResId) (f : Reservation → Reservation) (s : State) : (updRes r f s).linkRate = s.linkRate := rfl
@[simp] theorem updRes_storeDamaged (r : ResId) (f : Reservation → Reservation) (s : State) : (updRes r f s).storeDamaged = s.storeDamaged := rfl
@[simp] theorem updRes_loader (r : ResId) (f : Reservation → Reservation) (s : State) : (updRes r f s).loader = s.loader := rfl
@[simp] theorem updRes_imageVersion (r : ResId) (f : Reservation → Reservation) (s : State) : (updRes r f s).imageVersion = s.imageVersion := rfl
@[simp] theorem updRes_timing (r : ResId) (f : Reservation → Reservation) (s : State) : (updRes r f s).timing = s.timing := rfl
@[simp] theorem updRes_write (r : ResId) (f : Reservation → Reservation) (s : State) : (updRes r f s).write = s.write := rfl
@[simp] theorem updRes_lastStoreResult (r : ResId) (f : Reservation → Reservation) (s : State) : (updRes r f s).lastStoreResult = s.lastStoreResult := rfl
@[simp] theorem updRes_layoutResetDue (r : ResId) (f : Reservation → Reservation) (s : State) : (updRes r f s).layoutResetDue = s.layoutResetDue := rfl
@[simp] theorem updRes_resetHeld (r : ResId) (f : Reservation → Reservation) (s : State) : (updRes r f s).resetHeld = s.resetHeld := rfl
@[simp] theorem updRes_store (r : ResId) (f : Reservation → Reservation) (s : State) : (updRes r f s).store = s.store := rfl
@[simp] theorem updRes_torn (r : ResId) (f : Reservation → Reservation) (s : State) : (updRes r f s).torn = s.torn := rfl
@[simp] theorem updRes_freeCtr (r : ResId) (f : Reservation → Reservation) (s : State) : (updRes r f s).freeCtr = s.freeCtr := rfl
@[simp] theorem updRes_pending (r : ResId) (f : Reservation → Reservation) (s : State) : (updRes r f s).pending = s.pending := rfl

/-! ### updTrain -/

@[simp] theorem updTrain_trains (t : TrainId) (f : Train → Train) (s : State) : (updTrain t f s).trains = tupd s.trains t (Option.map f) := rfl
@[simp] theorem updTrain_sections (t : TrainId) (f : Train → Train) (s : State) : (updTrain t f s).sections = s.sections := rfl
@[simp] theorem updTrain_districts (t : TrainId) (f : Train → Train) (s : State) : (updTrain t f s).districts = s.districts := rfl
@[simp] theorem updTrain_signals (t : TrainId) (f : Train → Train) (s : State) : (updTrain t f s).signals = s.signals := rfl
@[simp] theorem updTrain_points (t : TrainId) (f : Train → Train) (s : State) : (updTrain t f s).points = s.points := rfl
@[simp] theorem updTrain_throwQueue (t : TrainId) (f : Train → Train) (s : State) : (updTrain t f s).throwQueue = s.throwQueue := rfl
@[simp] theorem updTrain_rechargeTimer (t : TrainId) (f : Train → Train) (s : State) : (updTrain t f s).rechargeTimer = s.rechargeTimer := rfl
@[simp] theorem updTrain_slots (t : TrainId) (f : Train → Train) (s : State) : (updTrain t f s).slots = s.slots := rfl
@[simp] theorem updTrain_reservations (t : TrainId) (f : Train → Train) (s : State) : (updTrain t f s).reservations = s.reservations := rfl
@[simp] theorem updTrain_tt (t : TrainId) (f : Train → Train) (s : State) : (updTrain t f s).tt = s.tt := rfl
@[simp] theorem updTrain_announcements (t : TrainId) (f : Train → Train) (s : State) : (updTrain t f s).announcements = s.announcements := rfl
@[simp] theorem updTrain_depBoards (t : TrainId) (f : Train → Train) (s : State) : (updTrain t f s).depBoards = s.depBoards := rfl
@[simp] theorem updTrain_openDay (t : TrainId) (f : Train → Train) (s : State) : (updTrain t f s).openDay = s.openDay := rfl
@[simp] theorem updTrain_buttons (t : TrainId) (f : Train → Train) (s : State) : (updTrain t f s).buttons = s.buttons := rfl
@[simp] theorem updTrain_boards (t : TrainId) (f : Train → Train) (s : State) : (updTrain t f s).boards = s.boards := rfl
@[simp] theorem updTrain_fieldLink (t : TrainId) (f : Train → Train) (s : State) : (updTrain t f s).fieldLink = s.fieldLink := rfl
@[simp] theorem updTrain_stations (t : TrainId) (f : Train → Train) (s : State) : (updTrain t f s).stations = s.stations := rfl
@[simp] theorem updTrain_stationsRead (t : TrainId) (f : Train → Train) (s : State) : (updTrain t f s).stationsRead = s.stationsRead := rfl
@[simp] theorem updTrain_panelLink (t : TrainId) (f : Train → Train) (s : State) : (updTrain t f s).panelLink = s.panelLink := rfl
@[simp] theorem updTrain_loadState (t : TrainId) (f : Train → Train) (s : State) : (updTrain t f s).loadState = s.loadState := rfl
@[simp] theorem updTrain_linkRate (t : TrainId) (f : Train → Train) (s : State) : (updTrain t f s).linkRate = s.linkRate := rfl
@[simp] theorem updTrain_storeDamaged (t : TrainId) (f : Train → Train) (s : State) : (updTrain t f s).storeDamaged = s.storeDamaged := rfl
@[simp] theorem updTrain_loader (t : TrainId) (f : Train → Train) (s : State) : (updTrain t f s).loader = s.loader := rfl
@[simp] theorem updTrain_imageVersion (t : TrainId) (f : Train → Train) (s : State) : (updTrain t f s).imageVersion = s.imageVersion := rfl
@[simp] theorem updTrain_timing (t : TrainId) (f : Train → Train) (s : State) : (updTrain t f s).timing = s.timing := rfl
@[simp] theorem updTrain_write (t : TrainId) (f : Train → Train) (s : State) : (updTrain t f s).write = s.write := rfl
@[simp] theorem updTrain_lastStoreResult (t : TrainId) (f : Train → Train) (s : State) : (updTrain t f s).lastStoreResult = s.lastStoreResult := rfl
@[simp] theorem updTrain_layoutResetDue (t : TrainId) (f : Train → Train) (s : State) : (updTrain t f s).layoutResetDue = s.layoutResetDue := rfl
@[simp] theorem updTrain_resetHeld (t : TrainId) (f : Train → Train) (s : State) : (updTrain t f s).resetHeld = s.resetHeld := rfl
@[simp] theorem updTrain_store (t : TrainId) (f : Train → Train) (s : State) : (updTrain t f s).store = s.store := rfl
@[simp] theorem updTrain_torn (t : TrainId) (f : Train → Train) (s : State) : (updTrain t f s).torn = s.torn := rfl
@[simp] theorem updTrain_freeCtr (t : TrainId) (f : Train → Train) (s : State) : (updTrain t f s).freeCtr = s.freeCtr := rfl
@[simp] theorem updTrain_pending (t : TrainId) (f : Train → Train) (s : State) : (updTrain t f s).pending = s.pending := rfl

/-! ### setTt -/

@[simp] theorem setTt_tt (f : Turntable → Turntable) (s : State) : (setTt f s).tt = f s.tt := rfl
@[simp] theorem setTt_sections (f : Turntable → Turntable) (s : State) : (setTt f s).sections = s.sections := rfl
@[simp] theorem setTt_districts (f : Turntable → Turntable) (s : State) : (setTt f s).districts = s.districts := rfl
@[simp] theorem setTt_signals (f : Turntable → Turntable) (s : State) : (setTt f s).signals = s.signals := rfl
@[simp] theorem setTt_points (f : Turntable → Turntable) (s : State) : (setTt f s).points = s.points := rfl
@[simp] theorem setTt_throwQueue (f : Turntable → Turntable) (s : State) : (setTt f s).throwQueue = s.throwQueue := rfl
@[simp] theorem setTt_rechargeTimer (f : Turntable → Turntable) (s : State) : (setTt f s).rechargeTimer = s.rechargeTimer := rfl
@[simp] theorem setTt_slots (f : Turntable → Turntable) (s : State) : (setTt f s).slots = s.slots := rfl
@[simp] theorem setTt_reservations (f : Turntable → Turntable) (s : State) : (setTt f s).reservations = s.reservations := rfl
@[simp] theorem setTt_trains (f : Turntable → Turntable) (s : State) : (setTt f s).trains = s.trains := rfl
@[simp] theorem setTt_announcements (f : Turntable → Turntable) (s : State) : (setTt f s).announcements = s.announcements := rfl
@[simp] theorem setTt_depBoards (f : Turntable → Turntable) (s : State) : (setTt f s).depBoards = s.depBoards := rfl
@[simp] theorem setTt_openDay (f : Turntable → Turntable) (s : State) : (setTt f s).openDay = s.openDay := rfl
@[simp] theorem setTt_buttons (f : Turntable → Turntable) (s : State) : (setTt f s).buttons = s.buttons := rfl
@[simp] theorem setTt_boards (f : Turntable → Turntable) (s : State) : (setTt f s).boards = s.boards := rfl
@[simp] theorem setTt_fieldLink (f : Turntable → Turntable) (s : State) : (setTt f s).fieldLink = s.fieldLink := rfl
@[simp] theorem setTt_stations (f : Turntable → Turntable) (s : State) : (setTt f s).stations = s.stations := rfl
@[simp] theorem setTt_stationsRead (f : Turntable → Turntable) (s : State) : (setTt f s).stationsRead = s.stationsRead := rfl
@[simp] theorem setTt_panelLink (f : Turntable → Turntable) (s : State) : (setTt f s).panelLink = s.panelLink := rfl
@[simp] theorem setTt_loadState (f : Turntable → Turntable) (s : State) : (setTt f s).loadState = s.loadState := rfl
@[simp] theorem setTt_linkRate (f : Turntable → Turntable) (s : State) : (setTt f s).linkRate = s.linkRate := rfl
@[simp] theorem setTt_storeDamaged (f : Turntable → Turntable) (s : State) : (setTt f s).storeDamaged = s.storeDamaged := rfl
@[simp] theorem setTt_loader (f : Turntable → Turntable) (s : State) : (setTt f s).loader = s.loader := rfl
@[simp] theorem setTt_imageVersion (f : Turntable → Turntable) (s : State) : (setTt f s).imageVersion = s.imageVersion := rfl
@[simp] theorem setTt_timing (f : Turntable → Turntable) (s : State) : (setTt f s).timing = s.timing := rfl
@[simp] theorem setTt_write (f : Turntable → Turntable) (s : State) : (setTt f s).write = s.write := rfl
@[simp] theorem setTt_lastStoreResult (f : Turntable → Turntable) (s : State) : (setTt f s).lastStoreResult = s.lastStoreResult := rfl
@[simp] theorem setTt_layoutResetDue (f : Turntable → Turntable) (s : State) : (setTt f s).layoutResetDue = s.layoutResetDue := rfl
@[simp] theorem setTt_resetHeld (f : Turntable → Turntable) (s : State) : (setTt f s).resetHeld = s.resetHeld := rfl
@[simp] theorem setTt_store (f : Turntable → Turntable) (s : State) : (setTt f s).store = s.store := rfl
@[simp] theorem setTt_torn (f : Turntable → Turntable) (s : State) : (setTt f s).torn = s.torn := rfl
@[simp] theorem setTt_freeCtr (f : Turntable → Turntable) (s : State) : (setTt f s).freeCtr = s.freeCtr := rfl
@[simp] theorem setTt_pending (f : Turntable → Turntable) (s : State) : (setTt f s).pending = s.pending := rfl

/-! ### setQueue -/

@[simp] theorem setQueue_tt (q : List Move) (s : State) : (setQueue q s).tt = { s.tt with queue := retime q } := rfl
@[simp] theorem setQueue_sections (q : List Move) (s : State) : (setQueue q s).sections = s.sections := rfl
@[simp] theorem setQueue_districts (q : List Move) (s : State) : (setQueue q s).districts = s.districts := rfl
@[simp] theorem setQueue_signals (q : List Move) (s : State) : (setQueue q s).signals = s.signals := rfl
@[simp] theorem setQueue_points (q : List Move) (s : State) : (setQueue q s).points = s.points := rfl
@[simp] theorem setQueue_throwQueue (q : List Move) (s : State) : (setQueue q s).throwQueue = s.throwQueue := rfl
@[simp] theorem setQueue_rechargeTimer (q : List Move) (s : State) : (setQueue q s).rechargeTimer = s.rechargeTimer := rfl
@[simp] theorem setQueue_slots (q : List Move) (s : State) : (setQueue q s).slots = s.slots := rfl
@[simp] theorem setQueue_reservations (q : List Move) (s : State) : (setQueue q s).reservations = s.reservations := rfl
@[simp] theorem setQueue_trains (q : List Move) (s : State) : (setQueue q s).trains = s.trains := rfl
@[simp] theorem setQueue_announcements (q : List Move) (s : State) : (setQueue q s).announcements = s.announcements := rfl
@[simp] theorem setQueue_depBoards (q : List Move) (s : State) : (setQueue q s).depBoards = s.depBoards := rfl
@[simp] theorem setQueue_openDay (q : List Move) (s : State) : (setQueue q s).openDay = s.openDay := rfl
@[simp] theorem setQueue_buttons (q : List Move) (s : State) : (setQueue q s).buttons = s.buttons := rfl
@[simp] theorem setQueue_boards (q : List Move) (s : State) : (setQueue q s).boards = s.boards := rfl
@[simp] theorem setQueue_fieldLink (q : List Move) (s : State) : (setQueue q s).fieldLink = s.fieldLink := rfl
@[simp] theorem setQueue_stations (q : List Move) (s : State) : (setQueue q s).stations = s.stations := rfl
@[simp] theorem setQueue_stationsRead (q : List Move) (s : State) : (setQueue q s).stationsRead = s.stationsRead := rfl
@[simp] theorem setQueue_panelLink (q : List Move) (s : State) : (setQueue q s).panelLink = s.panelLink := rfl
@[simp] theorem setQueue_loadState (q : List Move) (s : State) : (setQueue q s).loadState = s.loadState := rfl
@[simp] theorem setQueue_linkRate (q : List Move) (s : State) : (setQueue q s).linkRate = s.linkRate := rfl
@[simp] theorem setQueue_storeDamaged (q : List Move) (s : State) : (setQueue q s).storeDamaged = s.storeDamaged := rfl
@[simp] theorem setQueue_loader (q : List Move) (s : State) : (setQueue q s).loader = s.loader := rfl
@[simp] theorem setQueue_imageVersion (q : List Move) (s : State) : (setQueue q s).imageVersion = s.imageVersion := rfl
@[simp] theorem setQueue_timing (q : List Move) (s : State) : (setQueue q s).timing = s.timing := rfl
@[simp] theorem setQueue_write (q : List Move) (s : State) : (setQueue q s).write = s.write := rfl
@[simp] theorem setQueue_lastStoreResult (q : List Move) (s : State) : (setQueue q s).lastStoreResult = s.lastStoreResult := rfl
@[simp] theorem setQueue_layoutResetDue (q : List Move) (s : State) : (setQueue q s).layoutResetDue = s.layoutResetDue := rfl
@[simp] theorem setQueue_resetHeld (q : List Move) (s : State) : (setQueue q s).resetHeld = s.resetHeld := rfl
@[simp] theorem setQueue_store (q : List Move) (s : State) : (setQueue q s).store = s.store := rfl
@[simp] theorem setQueue_torn (q : List Move) (s : State) : (setQueue q s).torn = s.torn := rfl
@[simp] theorem setQueue_freeCtr (q : List Move) (s : State) : (setQueue q s).freeCtr = s.freeCtr := rfl
@[simp] theorem setQueue_pending (q : List Move) (s : State) : (setQueue q s).pending = s.pending := rfl

/-! ### putOcc -/

@[simp] theorem putOcc_sections (n : SectionId) (x : Occupancy) (s : State) : (putOcc n x s).sections = tupd s.sections n fun e => { e with occ := x, clearTimer := none } := rfl
@[simp] theorem putOcc_districts (n : SectionId) (x : Occupancy) (s : State) : (putOcc n x s).districts = s.districts := rfl
@[simp] theorem putOcc_signals (n : SectionId) (x : Occupancy) (s : State) : (putOcc n x s).signals = s.signals := rfl
@[simp] theorem putOcc_points (n : SectionId) (x : Occupancy) (s : State) : (putOcc n x s).points = s.points := rfl
@[simp] theorem putOcc_throwQueue (n : SectionId) (x : Occupancy) (s : State) : (putOcc n x s).throwQueue = s.throwQueue := rfl
@[simp] theorem putOcc_rechargeTimer (n : SectionId) (x : Occupancy) (s : State) : (putOcc n x s).rechargeTimer = s.rechargeTimer := rfl
@[simp] theorem putOcc_slots (n : SectionId) (x : Occupancy) (s : State) : (putOcc n x s).slots = s.slots := rfl
@[simp] theorem putOcc_reservations (n : SectionId) (x : Occupancy) (s : State) : (putOcc n x s).reservations = s.reservations := rfl
@[simp] theorem putOcc_trains (n : SectionId) (x : Occupancy) (s : State) : (putOcc n x s).trains = s.trains := rfl
@[simp] theorem putOcc_tt (n : SectionId) (x : Occupancy) (s : State) : (putOcc n x s).tt = s.tt := rfl
@[simp] theorem putOcc_announcements (n : SectionId) (x : Occupancy) (s : State) : (putOcc n x s).announcements = s.announcements := rfl
@[simp] theorem putOcc_depBoards (n : SectionId) (x : Occupancy) (s : State) : (putOcc n x s).depBoards = s.depBoards := rfl
@[simp] theorem putOcc_openDay (n : SectionId) (x : Occupancy) (s : State) : (putOcc n x s).openDay = s.openDay := rfl
@[simp] theorem putOcc_buttons (n : SectionId) (x : Occupancy) (s : State) : (putOcc n x s).buttons = s.buttons := rfl
@[simp] theorem putOcc_boards (n : SectionId) (x : Occupancy) (s : State) : (putOcc n x s).boards = s.boards := rfl
@[simp] theorem putOcc_fieldLink (n : SectionId) (x : Occupancy) (s : State) : (putOcc n x s).fieldLink = s.fieldLink := rfl
@[simp] theorem putOcc_stations (n : SectionId) (x : Occupancy) (s : State) : (putOcc n x s).stations = s.stations := rfl
@[simp] theorem putOcc_stationsRead (n : SectionId) (x : Occupancy) (s : State) : (putOcc n x s).stationsRead = s.stationsRead := rfl
@[simp] theorem putOcc_panelLink (n : SectionId) (x : Occupancy) (s : State) : (putOcc n x s).panelLink = s.panelLink := rfl
@[simp] theorem putOcc_loadState (n : SectionId) (x : Occupancy) (s : State) : (putOcc n x s).loadState = s.loadState := rfl
@[simp] theorem putOcc_linkRate (n : SectionId) (x : Occupancy) (s : State) : (putOcc n x s).linkRate = s.linkRate := rfl
@[simp] theorem putOcc_storeDamaged (n : SectionId) (x : Occupancy) (s : State) : (putOcc n x s).storeDamaged = s.storeDamaged := rfl
@[simp] theorem putOcc_loader (n : SectionId) (x : Occupancy) (s : State) : (putOcc n x s).loader = s.loader := rfl
@[simp] theorem putOcc_imageVersion (n : SectionId) (x : Occupancy) (s : State) : (putOcc n x s).imageVersion = s.imageVersion := rfl
@[simp] theorem putOcc_timing (n : SectionId) (x : Occupancy) (s : State) : (putOcc n x s).timing = s.timing := rfl
@[simp] theorem putOcc_write (n : SectionId) (x : Occupancy) (s : State) : (putOcc n x s).write = s.write := rfl
@[simp] theorem putOcc_lastStoreResult (n : SectionId) (x : Occupancy) (s : State) : (putOcc n x s).lastStoreResult = s.lastStoreResult := rfl
@[simp] theorem putOcc_layoutResetDue (n : SectionId) (x : Occupancy) (s : State) : (putOcc n x s).layoutResetDue = s.layoutResetDue := rfl
@[simp] theorem putOcc_resetHeld (n : SectionId) (x : Occupancy) (s : State) : (putOcc n x s).resetHeld = s.resetHeld := rfl
@[simp] theorem putOcc_store (n : SectionId) (x : Occupancy) (s : State) : (putOcc n x s).store = s.store := rfl
@[simp] theorem putOcc_torn (n : SectionId) (x : Occupancy) (s : State) : (putOcc n x s).torn = s.torn := rfl
@[simp] theorem putOcc_freeCtr (n : SectionId) (x : Occupancy) (s : State) : (putOcc n x s).freeCtr = s.freeCtr := rfl
@[simp] theorem putOcc_pending (n : SectionId) (x : Occupancy) (s : State) : (putOcc n x s).pending = s.pending := rfl

/-! ### setDistrict -/

@[simp] theorem setDistrict_districts (d : DistrictId) (f : DistrictRec → DistrictRec) (s : State) : (setDistrict d f s).districts = tupd s.districts d f := rfl
@[simp] theorem setDistrict_sections (d : DistrictId) (f : DistrictRec → DistrictRec) (s : State) : (setDistrict d f s).sections = s.sections := rfl
@[simp] theorem setDistrict_signals (d : DistrictId) (f : DistrictRec → DistrictRec) (s : State) : (setDistrict d f s).signals = s.signals := rfl
@[simp] theorem setDistrict_points (d : DistrictId) (f : DistrictRec → DistrictRec) (s : State) : (setDistrict d f s).points = s.points := rfl
@[simp] theorem setDistrict_throwQueue (d : DistrictId) (f : DistrictRec → DistrictRec) (s : State) : (setDistrict d f s).throwQueue = s.throwQueue := rfl
@[simp] theorem setDistrict_rechargeTimer (d : DistrictId) (f : DistrictRec → DistrictRec) (s : State) : (setDistrict d f s).rechargeTimer = s.rechargeTimer := rfl
@[simp] theorem setDistrict_slots (d : DistrictId) (f : DistrictRec → DistrictRec) (s : State) : (setDistrict d f s).slots = s.slots := rfl
@[simp] theorem setDistrict_reservations (d : DistrictId) (f : DistrictRec → DistrictRec) (s : State) : (setDistrict d f s).reservations = s.reservations := rfl
@[simp] theorem setDistrict_trains (d : DistrictId) (f : DistrictRec → DistrictRec) (s : State) : (setDistrict d f s).trains = s.trains := rfl
@[simp] theorem setDistrict_tt (d : DistrictId) (f : DistrictRec → DistrictRec) (s : State) : (setDistrict d f s).tt = s.tt := rfl
@[simp] theorem setDistrict_announcements (d : DistrictId) (f : DistrictRec → DistrictRec) (s : State) : (setDistrict d f s).announcements = s.announcements := rfl
@[simp] theorem setDistrict_depBoards (d : DistrictId) (f : DistrictRec → DistrictRec) (s : State) : (setDistrict d f s).depBoards = s.depBoards := rfl
@[simp] theorem setDistrict_openDay (d : DistrictId) (f : DistrictRec → DistrictRec) (s : State) : (setDistrict d f s).openDay = s.openDay := rfl
@[simp] theorem setDistrict_buttons (d : DistrictId) (f : DistrictRec → DistrictRec) (s : State) : (setDistrict d f s).buttons = s.buttons := rfl
@[simp] theorem setDistrict_boards (d : DistrictId) (f : DistrictRec → DistrictRec) (s : State) : (setDistrict d f s).boards = s.boards := rfl
@[simp] theorem setDistrict_fieldLink (d : DistrictId) (f : DistrictRec → DistrictRec) (s : State) : (setDistrict d f s).fieldLink = s.fieldLink := rfl
@[simp] theorem setDistrict_stations (d : DistrictId) (f : DistrictRec → DistrictRec) (s : State) : (setDistrict d f s).stations = s.stations := rfl
@[simp] theorem setDistrict_stationsRead (d : DistrictId) (f : DistrictRec → DistrictRec) (s : State) : (setDistrict d f s).stationsRead = s.stationsRead := rfl
@[simp] theorem setDistrict_panelLink (d : DistrictId) (f : DistrictRec → DistrictRec) (s : State) : (setDistrict d f s).panelLink = s.panelLink := rfl
@[simp] theorem setDistrict_loadState (d : DistrictId) (f : DistrictRec → DistrictRec) (s : State) : (setDistrict d f s).loadState = s.loadState := rfl
@[simp] theorem setDistrict_linkRate (d : DistrictId) (f : DistrictRec → DistrictRec) (s : State) : (setDistrict d f s).linkRate = s.linkRate := rfl
@[simp] theorem setDistrict_storeDamaged (d : DistrictId) (f : DistrictRec → DistrictRec) (s : State) : (setDistrict d f s).storeDamaged = s.storeDamaged := rfl
@[simp] theorem setDistrict_loader (d : DistrictId) (f : DistrictRec → DistrictRec) (s : State) : (setDistrict d f s).loader = s.loader := rfl
@[simp] theorem setDistrict_imageVersion (d : DistrictId) (f : DistrictRec → DistrictRec) (s : State) : (setDistrict d f s).imageVersion = s.imageVersion := rfl
@[simp] theorem setDistrict_timing (d : DistrictId) (f : DistrictRec → DistrictRec) (s : State) : (setDistrict d f s).timing = s.timing := rfl
@[simp] theorem setDistrict_write (d : DistrictId) (f : DistrictRec → DistrictRec) (s : State) : (setDistrict d f s).write = s.write := rfl
@[simp] theorem setDistrict_lastStoreResult (d : DistrictId) (f : DistrictRec → DistrictRec) (s : State) : (setDistrict d f s).lastStoreResult = s.lastStoreResult := rfl
@[simp] theorem setDistrict_layoutResetDue (d : DistrictId) (f : DistrictRec → DistrictRec) (s : State) : (setDistrict d f s).layoutResetDue = s.layoutResetDue := rfl
@[simp] theorem setDistrict_resetHeld (d : DistrictId) (f : DistrictRec → DistrictRec) (s : State) : (setDistrict d f s).resetHeld = s.resetHeld := rfl
@[simp] theorem setDistrict_store (d : DistrictId) (f : DistrictRec → DistrictRec) (s : State) : (setDistrict d f s).store = s.store := rfl
@[simp] theorem setDistrict_torn (d : DistrictId) (f : DistrictRec → DistrictRec) (s : State) : (setDistrict d f s).torn = s.torn := rfl
@[simp] theorem setDistrict_freeCtr (d : DistrictId) (f : DistrictRec → DistrictRec) (s : State) : (setDistrict d f s).freeCtr = s.freeCtr := rfl
@[simp] theorem setDistrict_pending (d : DistrictId) (f : DistrictRec → DistrictRec) (s : State) : (setDistrict d f s).pending = s.pending := rfl

/-! ### setLink -/

@[simp] theorem setLink_fieldLink (f : FieldLink → FieldLink) (s : State) : (setLink f s).fieldLink = f s.fieldLink := rfl
@[simp] theorem setLink_sections (f : FieldLink → FieldLink) (s : State) : (setLink f s).sections = s.sections := rfl
@[simp] theorem setLink_districts (f : FieldLink → FieldLink) (s : State) : (setLink f s).districts = s.districts := rfl
@[simp] theorem setLink_signals (f : FieldLink → FieldLink) (s : State) : (setLink f s).signals = s.signals := rfl
@[simp] theorem setLink_points (f : FieldLink → FieldLink) (s : State) : (setLink f s).points = s.points := rfl
@[simp] theorem setLink_throwQueue (f : FieldLink → FieldLink) (s : State) : (setLink f s).throwQueue = s.throwQueue := rfl
@[simp] theorem setLink_rechargeTimer (f : FieldLink → FieldLink) (s : State) : (setLink f s).rechargeTimer = s.rechargeTimer := rfl
@[simp] theorem setLink_slots (f : FieldLink → FieldLink) (s : State) : (setLink f s).slots = s.slots := rfl
@[simp] theorem setLink_reservations (f : FieldLink → FieldLink) (s : State) : (setLink f s).reservations = s.reservations := rfl
@[simp] theorem setLink_trains (f : FieldLink → FieldLink) (s : State) : (setLink f s).trains = s.trains := rfl
@[simp] theorem setLink_tt (f : FieldLink → FieldLink) (s : State) : (setLink f s).tt = s.tt := rfl
@[simp] theorem setLink_announcements (f : FieldLink → FieldLink) (s : State) : (setLink f s).announcements = s.announcements := rfl
@[simp] theorem setLink_depBoards (f : FieldLink → FieldLink) (s : State) : (setLink f s).depBoards = s.depBoards := rfl
@[simp] theorem setLink_openDay (f : FieldLink → FieldLink) (s : State) : (setLink f s).openDay = s.openDay := rfl
@[simp] theorem setLink_buttons (f : FieldLink → FieldLink) (s : State) : (setLink f s).buttons = s.buttons := rfl
@[simp] theorem setLink_boards (f : FieldLink → FieldLink) (s : State) : (setLink f s).boards = s.boards := rfl
@[simp] theorem setLink_stations (f : FieldLink → FieldLink) (s : State) : (setLink f s).stations = s.stations := rfl
@[simp] theorem setLink_stationsRead (f : FieldLink → FieldLink) (s : State) : (setLink f s).stationsRead = s.stationsRead := rfl
@[simp] theorem setLink_panelLink (f : FieldLink → FieldLink) (s : State) : (setLink f s).panelLink = s.panelLink := rfl
@[simp] theorem setLink_loadState (f : FieldLink → FieldLink) (s : State) : (setLink f s).loadState = s.loadState := rfl
@[simp] theorem setLink_linkRate (f : FieldLink → FieldLink) (s : State) : (setLink f s).linkRate = s.linkRate := rfl
@[simp] theorem setLink_storeDamaged (f : FieldLink → FieldLink) (s : State) : (setLink f s).storeDamaged = s.storeDamaged := rfl
@[simp] theorem setLink_loader (f : FieldLink → FieldLink) (s : State) : (setLink f s).loader = s.loader := rfl
@[simp] theorem setLink_imageVersion (f : FieldLink → FieldLink) (s : State) : (setLink f s).imageVersion = s.imageVersion := rfl
@[simp] theorem setLink_timing (f : FieldLink → FieldLink) (s : State) : (setLink f s).timing = s.timing := rfl
@[simp] theorem setLink_write (f : FieldLink → FieldLink) (s : State) : (setLink f s).write = s.write := rfl
@[simp] theorem setLink_lastStoreResult (f : FieldLink → FieldLink) (s : State) : (setLink f s).lastStoreResult = s.lastStoreResult := rfl
@[simp] theorem setLink_layoutResetDue (f : FieldLink → FieldLink) (s : State) : (setLink f s).layoutResetDue = s.layoutResetDue := rfl
@[simp] theorem setLink_resetHeld (f : FieldLink → FieldLink) (s : State) : (setLink f s).resetHeld = s.resetHeld := rfl
@[simp] theorem setLink_store (f : FieldLink → FieldLink) (s : State) : (setLink f s).store = s.store := rfl
@[simp] theorem setLink_torn (f : FieldLink → FieldLink) (s : State) : (setLink f s).torn = s.torn := rfl
@[simp] theorem setLink_freeCtr (f : FieldLink → FieldLink) (s : State) : (setLink f s).freeCtr = s.freeCtr := rfl
@[simp] theorem setLink_pending (f : FieldLink → FieldLink) (s : State) : (setLink f s).pending = s.pending := rfl

/-! ### setBoard -/

@[simp] theorem setBoard_boards (a : BoardIdx) (f : BoardRec → BoardRec) (s : State) : (setBoard a f s).boards = tupd s.boards a f := rfl
@[simp] theorem setBoard_sections (a : BoardIdx) (f : BoardRec → BoardRec) (s : State) : (setBoard a f s).sections = s.sections := rfl
@[simp] theorem setBoard_districts (a : BoardIdx) (f : BoardRec → BoardRec) (s : State) : (setBoard a f s).districts = s.districts := rfl
@[simp] theorem setBoard_signals (a : BoardIdx) (f : BoardRec → BoardRec) (s : State) : (setBoard a f s).signals = s.signals := rfl
@[simp] theorem setBoard_points (a : BoardIdx) (f : BoardRec → BoardRec) (s : State) : (setBoard a f s).points = s.points := rfl
@[simp] theorem setBoard_throwQueue (a : BoardIdx) (f : BoardRec → BoardRec) (s : State) : (setBoard a f s).throwQueue = s.throwQueue := rfl
@[simp] theorem setBoard_rechargeTimer (a : BoardIdx) (f : BoardRec → BoardRec) (s : State) : (setBoard a f s).rechargeTimer = s.rechargeTimer := rfl
@[simp] theorem setBoard_slots (a : BoardIdx) (f : BoardRec → BoardRec) (s : State) : (setBoard a f s).slots = s.slots := rfl
@[simp] theorem setBoard_reservations (a : BoardIdx) (f : BoardRec → BoardRec) (s : State) : (setBoard a f s).reservations = s.reservations := rfl
@[simp] theorem setBoard_trains (a : BoardIdx) (f : BoardRec → BoardRec) (s : State) : (setBoard a f s).trains = s.trains := rfl
@[simp] theorem setBoard_tt (a : BoardIdx) (f : BoardRec → BoardRec) (s : State) : (setBoard a f s).tt = s.tt := rfl
@[simp] theorem setBoard_announcements (a : BoardIdx) (f : BoardRec → BoardRec) (s : State) : (setBoard a f s).announcements = s.announcements := rfl
@[simp] theorem setBoard_depBoards (a : BoardIdx) (f : BoardRec → BoardRec) (s : State) : (setBoard a f s).depBoards = s.depBoards := rfl
@[simp] theorem setBoard_openDay (a : BoardIdx) (f : BoardRec → BoardRec) (s : State) : (setBoard a f s).openDay = s.openDay := rfl
@[simp] theorem setBoard_buttons (a : BoardIdx) (f : BoardRec → BoardRec) (s : State) : (setBoard a f s).buttons = s.buttons := rfl
@[simp] theorem setBoard_fieldLink (a : BoardIdx) (f : BoardRec → BoardRec) (s : State) : (setBoard a f s).fieldLink = s.fieldLink := rfl
@[simp] theorem setBoard_stations (a : BoardIdx) (f : BoardRec → BoardRec) (s : State) : (setBoard a f s).stations = s.stations := rfl
@[simp] theorem setBoard_stationsRead (a : BoardIdx) (f : BoardRec → BoardRec) (s : State) : (setBoard a f s).stationsRead = s.stationsRead := rfl
@[simp] theorem setBoard_panelLink (a : BoardIdx) (f : BoardRec → BoardRec) (s : State) : (setBoard a f s).panelLink = s.panelLink := rfl
@[simp] theorem setBoard_loadState (a : BoardIdx) (f : BoardRec → BoardRec) (s : State) : (setBoard a f s).loadState = s.loadState := rfl
@[simp] theorem setBoard_linkRate (a : BoardIdx) (f : BoardRec → BoardRec) (s : State) : (setBoard a f s).linkRate = s.linkRate := rfl
@[simp] theorem setBoard_storeDamaged (a : BoardIdx) (f : BoardRec → BoardRec) (s : State) : (setBoard a f s).storeDamaged = s.storeDamaged := rfl
@[simp] theorem setBoard_loader (a : BoardIdx) (f : BoardRec → BoardRec) (s : State) : (setBoard a f s).loader = s.loader := rfl
@[simp] theorem setBoard_imageVersion (a : BoardIdx) (f : BoardRec → BoardRec) (s : State) : (setBoard a f s).imageVersion = s.imageVersion := rfl
@[simp] theorem setBoard_timing (a : BoardIdx) (f : BoardRec → BoardRec) (s : State) : (setBoard a f s).timing = s.timing := rfl
@[simp] theorem setBoard_write (a : BoardIdx) (f : BoardRec → BoardRec) (s : State) : (setBoard a f s).write = s.write := rfl
@[simp] theorem setBoard_lastStoreResult (a : BoardIdx) (f : BoardRec → BoardRec) (s : State) : (setBoard a f s).lastStoreResult = s.lastStoreResult := rfl
@[simp] theorem setBoard_layoutResetDue (a : BoardIdx) (f : BoardRec → BoardRec) (s : State) : (setBoard a f s).layoutResetDue = s.layoutResetDue := rfl
@[simp] theorem setBoard_resetHeld (a : BoardIdx) (f : BoardRec → BoardRec) (s : State) : (setBoard a f s).resetHeld = s.resetHeld := rfl
@[simp] theorem setBoard_store (a : BoardIdx) (f : BoardRec → BoardRec) (s : State) : (setBoard a f s).store = s.store := rfl
@[simp] theorem setBoard_torn (a : BoardIdx) (f : BoardRec → BoardRec) (s : State) : (setBoard a f s).torn = s.torn := rfl
@[simp] theorem setBoard_freeCtr (a : BoardIdx) (f : BoardRec → BoardRec) (s : State) : (setBoard a f s).freeCtr = s.freeCtr := rfl
@[simp] theorem setBoard_pending (a : BoardIdx) (f : BoardRec → BoardRec) (s : State) : (setBoard a f s).pending = s.pending := rfl

/-! ### setStation -/

@[simp] theorem setStation_stations (st : StationId) (f : StationRec → StationRec) (s : State) : (setStation st f s).stations = tupd s.stations st f := rfl
@[simp] theorem setStation_sections (st : StationId) (f : StationRec → StationRec) (s : State) : (setStation st f s).sections = s.sections := rfl
@[simp] theorem setStation_districts (st : StationId) (f : StationRec → StationRec) (s : State) : (setStation st f s).districts = s.districts := rfl
@[simp] theorem setStation_signals (st : StationId) (f : StationRec → StationRec) (s : State) : (setStation st f s).signals = s.signals := rfl
@[simp] theorem setStation_points (st : StationId) (f : StationRec → StationRec) (s : State) : (setStation st f s).points = s.points := rfl
@[simp] theorem setStation_throwQueue (st : StationId) (f : StationRec → StationRec) (s : State) : (setStation st f s).throwQueue = s.throwQueue := rfl
@[simp] theorem setStation_rechargeTimer (st : StationId) (f : StationRec → StationRec) (s : State) : (setStation st f s).rechargeTimer = s.rechargeTimer := rfl
@[simp] theorem setStation_slots (st : StationId) (f : StationRec → StationRec) (s : State) : (setStation st f s).slots = s.slots := rfl
@[simp] theorem setStation_reservations (st : StationId) (f : StationRec → StationRec) (s : State) : (setStation st f s).reservations = s.reservations := rfl
@[simp] theorem setStation_trains (st : StationId) (f : StationRec → StationRec) (s : State) : (setStation st f s).trains = s.trains := rfl
@[simp] theorem setStation_tt (st : StationId) (f : StationRec → StationRec) (s : State) : (setStation st f s).tt = s.tt := rfl
@[simp] theorem setStation_announcements (st : StationId) (f : StationRec → StationRec) (s : State) : (setStation st f s).announcements = s.announcements := rfl
@[simp] theorem setStation_depBoards (st : StationId) (f : StationRec → StationRec) (s : State) : (setStation st f s).depBoards = s.depBoards := rfl
@[simp] theorem setStation_openDay (st : StationId) (f : StationRec → StationRec) (s : State) : (setStation st f s).openDay = s.openDay := rfl
@[simp] theorem setStation_buttons (st : StationId) (f : StationRec → StationRec) (s : State) : (setStation st f s).buttons = s.buttons := rfl
@[simp] theorem setStation_boards (st : StationId) (f : StationRec → StationRec) (s : State) : (setStation st f s).boards = s.boards := rfl
@[simp] theorem setStation_fieldLink (st : StationId) (f : StationRec → StationRec) (s : State) : (setStation st f s).fieldLink = s.fieldLink := rfl
@[simp] theorem setStation_stationsRead (st : StationId) (f : StationRec → StationRec) (s : State) : (setStation st f s).stationsRead = s.stationsRead := rfl
@[simp] theorem setStation_panelLink (st : StationId) (f : StationRec → StationRec) (s : State) : (setStation st f s).panelLink = s.panelLink := rfl
@[simp] theorem setStation_loadState (st : StationId) (f : StationRec → StationRec) (s : State) : (setStation st f s).loadState = s.loadState := rfl
@[simp] theorem setStation_linkRate (st : StationId) (f : StationRec → StationRec) (s : State) : (setStation st f s).linkRate = s.linkRate := rfl
@[simp] theorem setStation_storeDamaged (st : StationId) (f : StationRec → StationRec) (s : State) : (setStation st f s).storeDamaged = s.storeDamaged := rfl
@[simp] theorem setStation_loader (st : StationId) (f : StationRec → StationRec) (s : State) : (setStation st f s).loader = s.loader := rfl
@[simp] theorem setStation_imageVersion (st : StationId) (f : StationRec → StationRec) (s : State) : (setStation st f s).imageVersion = s.imageVersion := rfl
@[simp] theorem setStation_timing (st : StationId) (f : StationRec → StationRec) (s : State) : (setStation st f s).timing = s.timing := rfl
@[simp] theorem setStation_write (st : StationId) (f : StationRec → StationRec) (s : State) : (setStation st f s).write = s.write := rfl
@[simp] theorem setStation_lastStoreResult (st : StationId) (f : StationRec → StationRec) (s : State) : (setStation st f s).lastStoreResult = s.lastStoreResult := rfl
@[simp] theorem setStation_layoutResetDue (st : StationId) (f : StationRec → StationRec) (s : State) : (setStation st f s).layoutResetDue = s.layoutResetDue := rfl
@[simp] theorem setStation_resetHeld (st : StationId) (f : StationRec → StationRec) (s : State) : (setStation st f s).resetHeld = s.resetHeld := rfl
@[simp] theorem setStation_store (st : StationId) (f : StationRec → StationRec) (s : State) : (setStation st f s).store = s.store := rfl
@[simp] theorem setStation_torn (st : StationId) (f : StationRec → StationRec) (s : State) : (setStation st f s).torn = s.torn := rfl
@[simp] theorem setStation_freeCtr (st : StationId) (f : StationRec → StationRec) (s : State) : (setStation st f s).freeCtr = s.freeCtr := rfl
@[simp] theorem setStation_pending (st : StationId) (f : StationRec → StationRec) (s : State) : (setStation st f s).pending = s.pending := rfl

/-! ### setPanel -/

@[simp] theorem setPanel_panelLink (f : PanelLink → PanelLink) (s : State) : (setPanel f s).panelLink = f s.panelLink := rfl
@[simp] theorem setPanel_sections (f : PanelLink → PanelLink) (s : State) : (setPanel f s).sections = s.sections := rfl
@[simp] theorem setPanel_districts (f : PanelLink → PanelLink) (s : State) : (setPanel f s).districts = s.districts := rfl
@[simp] theorem setPanel_signals (f : PanelLink → PanelLink) (s : State) : (setPanel f s).signals = s.signals := rfl
@[simp] theorem setPanel_points (f : PanelLink → PanelLink) (s : State) : (setPanel f s).points = s.points := rfl
@[simp] theorem setPanel_throwQueue (f : PanelLink → PanelLink) (s : State) : (setPanel f s).throwQueue = s.throwQueue := rfl
@[simp] theorem setPanel_rechargeTimer (f : PanelLink → PanelLink) (s : State) : (setPanel f s).rechargeTimer = s.rechargeTimer := rfl
@[simp] theorem setPanel_slots (f : PanelLink → PanelLink) (s : State) : (setPanel f s).slots = s.slots := rfl
@[simp] theorem setPanel_reservations (f : PanelLink → PanelLink) (s : State) : (setPanel f s).reservations = s.reservations := rfl
@[simp] theorem setPanel_trains (f : PanelLink → PanelLink) (s : State) : (setPanel f s).trains = s.trains := rfl
@[simp] theorem setPanel_tt (f : PanelLink → PanelLink) (s : State) : (setPanel f s).tt = s.tt := rfl
@[simp] theorem setPanel_announcements (f : PanelLink → PanelLink) (s : State) : (setPanel f s).announcements = s.announcements := rfl
@[simp] theorem setPanel_depBoards (f : PanelLink → PanelLink) (s : State) : (setPanel f s).depBoards = s.depBoards := rfl
@[simp] theorem setPanel_openDay (f : PanelLink → PanelLink) (s : State) : (setPanel f s).openDay = s.openDay := rfl
@[simp] theorem setPanel_buttons (f : PanelLink → PanelLink) (s : State) : (setPanel f s).buttons = s.buttons := rfl
@[simp] theorem setPanel_boards (f : PanelLink → PanelLink) (s : State) : (setPanel f s).boards = s.boards := rfl
@[simp] theorem setPanel_fieldLink (f : PanelLink → PanelLink) (s : State) : (setPanel f s).fieldLink = s.fieldLink := rfl
@[simp] theorem setPanel_stations (f : PanelLink → PanelLink) (s : State) : (setPanel f s).stations = s.stations := rfl
@[simp] theorem setPanel_stationsRead (f : PanelLink → PanelLink) (s : State) : (setPanel f s).stationsRead = s.stationsRead := rfl
@[simp] theorem setPanel_loadState (f : PanelLink → PanelLink) (s : State) : (setPanel f s).loadState = s.loadState := rfl
@[simp] theorem setPanel_linkRate (f : PanelLink → PanelLink) (s : State) : (setPanel f s).linkRate = s.linkRate := rfl
@[simp] theorem setPanel_storeDamaged (f : PanelLink → PanelLink) (s : State) : (setPanel f s).storeDamaged = s.storeDamaged := rfl
@[simp] theorem setPanel_loader (f : PanelLink → PanelLink) (s : State) : (setPanel f s).loader = s.loader := rfl
@[simp] theorem setPanel_imageVersion (f : PanelLink → PanelLink) (s : State) : (setPanel f s).imageVersion = s.imageVersion := rfl
@[simp] theorem setPanel_timing (f : PanelLink → PanelLink) (s : State) : (setPanel f s).timing = s.timing := rfl
@[simp] theorem setPanel_write (f : PanelLink → PanelLink) (s : State) : (setPanel f s).write = s.write := rfl
@[simp] theorem setPanel_lastStoreResult (f : PanelLink → PanelLink) (s : State) : (setPanel f s).lastStoreResult = s.lastStoreResult := rfl
@[simp] theorem setPanel_layoutResetDue (f : PanelLink → PanelLink) (s : State) : (setPanel f s).layoutResetDue = s.layoutResetDue := rfl
@[simp] theorem setPanel_resetHeld (f : PanelLink → PanelLink) (s : State) : (setPanel f s).resetHeld = s.resetHeld := rfl
@[simp] theorem setPanel_store (f : PanelLink → PanelLink) (s : State) : (setPanel f s).store = s.store := rfl
@[simp] theorem setPanel_torn (f : PanelLink → PanelLink) (s : State) : (setPanel f s).torn = s.torn := rfl
@[simp] theorem setPanel_freeCtr (f : PanelLink → PanelLink) (s : State) : (setPanel f s).freeCtr = s.freeCtr := rfl
@[simp] theorem setPanel_pending (f : PanelLink → PanelLink) (s : State) : (setPanel f s).pending = s.pending := rfl

/-! ### setSlot -/

@[simp] theorem setSlot_slots (n : SlotId) (x : SlotStatus) (s : State) : (setSlot n x s).slots = tupd s.slots n fun e => { e with status := x } := rfl
@[simp] theorem setSlot_sections (n : SlotId) (x : SlotStatus) (s : State) : (setSlot n x s).sections = s.sections := rfl
@[simp] theorem setSlot_districts (n : SlotId) (x : SlotStatus) (s : State) : (setSlot n x s).districts = s.districts := rfl
@[simp] theorem setSlot_signals (n : SlotId) (x : SlotStatus) (s : State) : (setSlot n x s).signals = s.signals := rfl
@[simp] theorem setSlot_points (n : SlotId) (x : SlotStatus) (s : State) : (setSlot n x s).points = s.points := rfl
@[simp] theorem setSlot_throwQueue (n : SlotId) (x : SlotStatus) (s : State) : (setSlot n x s).throwQueue = s.throwQueue := rfl
@[simp] theorem setSlot_rechargeTimer (n : SlotId) (x : SlotStatus) (s : State) : (setSlot n x s).rechargeTimer = s.rechargeTimer := rfl
@[simp] theorem setSlot_reservations (n : SlotId) (x : SlotStatus) (s : State) : (setSlot n x s).reservations = s.reservations := rfl
@[simp] theorem setSlot_trains (n : SlotId) (x : SlotStatus) (s : State) : (setSlot n x s).trains = s.trains := rfl
@[simp] theorem setSlot_tt (n : SlotId) (x : SlotStatus) (s : State) : (setSlot n x s).tt = s.tt := rfl
@[simp] theorem setSlot_announcements (n : SlotId) (x : SlotStatus) (s : State) : (setSlot n x s).announcements = s.announcements := rfl
@[simp] theorem setSlot_depBoards (n : SlotId) (x : SlotStatus) (s : State) : (setSlot n x s).depBoards = s.depBoards := rfl
@[simp] theorem setSlot_openDay (n : SlotId) (x : SlotStatus) (s : State) : (setSlot n x s).openDay = s.openDay := rfl
@[simp] theorem setSlot_buttons (n : SlotId) (x : SlotStatus) (s : State) : (setSlot n x s).buttons = s.buttons := rfl
@[simp] theorem setSlot_boards (n : SlotId) (x : SlotStatus) (s : State) : (setSlot n x s).boards = s.boards := rfl
@[simp] theorem setSlot_fieldLink (n : SlotId) (x : SlotStatus) (s : State) : (setSlot n x s).fieldLink = s.fieldLink := rfl
@[simp] theorem setSlot_stations (n : SlotId) (x : SlotStatus) (s : State) : (setSlot n x s).stations = s.stations := rfl
@[simp] theorem setSlot_stationsRead (n : SlotId) (x : SlotStatus) (s : State) : (setSlot n x s).stationsRead = s.stationsRead := rfl
@[simp] theorem setSlot_panelLink (n : SlotId) (x : SlotStatus) (s : State) : (setSlot n x s).panelLink = s.panelLink := rfl
@[simp] theorem setSlot_loadState (n : SlotId) (x : SlotStatus) (s : State) : (setSlot n x s).loadState = s.loadState := rfl
@[simp] theorem setSlot_linkRate (n : SlotId) (x : SlotStatus) (s : State) : (setSlot n x s).linkRate = s.linkRate := rfl
@[simp] theorem setSlot_storeDamaged (n : SlotId) (x : SlotStatus) (s : State) : (setSlot n x s).storeDamaged = s.storeDamaged := rfl
@[simp] theorem setSlot_loader (n : SlotId) (x : SlotStatus) (s : State) : (setSlot n x s).loader = s.loader := rfl
@[simp] theorem setSlot_imageVersion (n : SlotId) (x : SlotStatus) (s : State) : (setSlot n x s).imageVersion = s.imageVersion := rfl
@[simp] theorem setSlot_timing (n : SlotId) (x : SlotStatus) (s : State) : (setSlot n x s).timing = s.timing := rfl
@[simp] theorem setSlot_write (n : SlotId) (x : SlotStatus) (s : State) : (setSlot n x s).write = s.write := rfl
@[simp] theorem setSlot_lastStoreResult (n : SlotId) (x : SlotStatus) (s : State) : (setSlot n x s).lastStoreResult = s.lastStoreResult := rfl
@[simp] theorem setSlot_layoutResetDue (n : SlotId) (x : SlotStatus) (s : State) : (setSlot n x s).layoutResetDue = s.layoutResetDue := rfl
@[simp] theorem setSlot_resetHeld (n : SlotId) (x : SlotStatus) (s : State) : (setSlot n x s).resetHeld = s.resetHeld := rfl
@[simp] theorem setSlot_store (n : SlotId) (x : SlotStatus) (s : State) : (setSlot n x s).store = s.store := rfl
@[simp] theorem setSlot_torn (n : SlotId) (x : SlotStatus) (s : State) : (setSlot n x s).torn = s.torn := rfl
@[simp] theorem setSlot_freeCtr (n : SlotId) (x : SlotStatus) (s : State) : (setSlot n x s).freeCtr = s.freeCtr := rfl
@[simp] theorem setSlot_pending (n : SlotId) (x : SlotStatus) (s : State) : (setSlot n x s).pending = s.pending := rfl

/-! ### setWriting -/

@[simp] theorem setWriting_slots (n : SlotId) (on : Bool) (s : State) : (setWriting n on s).slots = tupd s.slots n fun e => { e with writing := on } := rfl
@[simp] theorem setWriting_sections (n : SlotId) (on : Bool) (s : State) : (setWriting n on s).sections = s.sections := rfl
@[simp] theorem setWriting_districts (n : SlotId) (on : Bool) (s : State) : (setWriting n on s).districts = s.districts := rfl
@[simp] theorem setWriting_signals (n : SlotId) (on : Bool) (s : State) : (setWriting n on s).signals = s.signals := rfl
@[simp] theorem setWriting_points (n : SlotId) (on : Bool) (s : State) : (setWriting n on s).points = s.points := rfl
@[simp] theorem setWriting_throwQueue (n : SlotId) (on : Bool) (s : State) : (setWriting n on s).throwQueue = s.throwQueue := rfl
@[simp] theorem setWriting_rechargeTimer (n : SlotId) (on : Bool) (s : State) : (setWriting n on s).rechargeTimer = s.rechargeTimer := rfl
@[simp] theorem setWriting_reservations (n : SlotId) (on : Bool) (s : State) : (setWriting n on s).reservations = s.reservations := rfl
@[simp] theorem setWriting_trains (n : SlotId) (on : Bool) (s : State) : (setWriting n on s).trains = s.trains := rfl
@[simp] theorem setWriting_tt (n : SlotId) (on : Bool) (s : State) : (setWriting n on s).tt = s.tt := rfl
@[simp] theorem setWriting_announcements (n : SlotId) (on : Bool) (s : State) : (setWriting n on s).announcements = s.announcements := rfl
@[simp] theorem setWriting_depBoards (n : SlotId) (on : Bool) (s : State) : (setWriting n on s).depBoards = s.depBoards := rfl
@[simp] theorem setWriting_openDay (n : SlotId) (on : Bool) (s : State) : (setWriting n on s).openDay = s.openDay := rfl
@[simp] theorem setWriting_buttons (n : SlotId) (on : Bool) (s : State) : (setWriting n on s).buttons = s.buttons := rfl
@[simp] theorem setWriting_boards (n : SlotId) (on : Bool) (s : State) : (setWriting n on s).boards = s.boards := rfl
@[simp] theorem setWriting_fieldLink (n : SlotId) (on : Bool) (s : State) : (setWriting n on s).fieldLink = s.fieldLink := rfl
@[simp] theorem setWriting_stations (n : SlotId) (on : Bool) (s : State) : (setWriting n on s).stations = s.stations := rfl
@[simp] theorem setWriting_stationsRead (n : SlotId) (on : Bool) (s : State) : (setWriting n on s).stationsRead = s.stationsRead := rfl
@[simp] theorem setWriting_panelLink (n : SlotId) (on : Bool) (s : State) : (setWriting n on s).panelLink = s.panelLink := rfl
@[simp] theorem setWriting_loadState (n : SlotId) (on : Bool) (s : State) : (setWriting n on s).loadState = s.loadState := rfl
@[simp] theorem setWriting_linkRate (n : SlotId) (on : Bool) (s : State) : (setWriting n on s).linkRate = s.linkRate := rfl
@[simp] theorem setWriting_storeDamaged (n : SlotId) (on : Bool) (s : State) : (setWriting n on s).storeDamaged = s.storeDamaged := rfl
@[simp] theorem setWriting_loader (n : SlotId) (on : Bool) (s : State) : (setWriting n on s).loader = s.loader := rfl
@[simp] theorem setWriting_imageVersion (n : SlotId) (on : Bool) (s : State) : (setWriting n on s).imageVersion = s.imageVersion := rfl
@[simp] theorem setWriting_timing (n : SlotId) (on : Bool) (s : State) : (setWriting n on s).timing = s.timing := rfl
@[simp] theorem setWriting_write (n : SlotId) (on : Bool) (s : State) : (setWriting n on s).write = s.write := rfl
@[simp] theorem setWriting_lastStoreResult (n : SlotId) (on : Bool) (s : State) : (setWriting n on s).lastStoreResult = s.lastStoreResult := rfl
@[simp] theorem setWriting_layoutResetDue (n : SlotId) (on : Bool) (s : State) : (setWriting n on s).layoutResetDue = s.layoutResetDue := rfl
@[simp] theorem setWriting_resetHeld (n : SlotId) (on : Bool) (s : State) : (setWriting n on s).resetHeld = s.resetHeld := rfl
@[simp] theorem setWriting_store (n : SlotId) (on : Bool) (s : State) : (setWriting n on s).store = s.store := rfl
@[simp] theorem setWriting_torn (n : SlotId) (on : Bool) (s : State) : (setWriting n on s).torn = s.torn := rfl
@[simp] theorem setWriting_freeCtr (n : SlotId) (on : Bool) (s : State) : (setWriting n on s).freeCtr = s.freeCtr := rfl
@[simp] theorem setWriting_pending (n : SlotId) (on : Bool) (s : State) : (setWriting n on s).pending = s.pending := rfl

/-! ### beginWrite -/

@[simp] theorem beginWrite_write (p : StorePage) (bs : List Byte) (s : State) : (beginWrite p bs s).write = some ⟨p, p, bs⟩ := rfl
@[simp] theorem beginWrite_sections (p : StorePage) (bs : List Byte) (s : State) : (beginWrite p bs s).sections = s.sections := rfl
@[simp] theorem beginWrite_districts (p : StorePage) (bs : List Byte) (s : State) : (beginWrite p bs s).districts = s.districts := rfl
@[simp] theorem beginWrite_signals (p : StorePage) (bs : List Byte) (s : State) : (beginWrite p bs s).signals = s.signals := rfl
@[simp] theorem beginWrite_points (p : StorePage) (bs : List Byte) (s : State) : (beginWrite p bs s).points = s.points := rfl
@[simp] theorem beginWrite_throwQueue (p : StorePage) (bs : List Byte) (s : State) : (beginWrite p bs s).throwQueue = s.throwQueue := rfl
@[simp] theorem beginWrite_rechargeTimer (p : StorePage) (bs : List Byte) (s : State) : (beginWrite p bs s).rechargeTimer = s.rechargeTimer := rfl
@[simp] theorem beginWrite_slots (p : StorePage) (bs : List Byte) (s : State) : (beginWrite p bs s).slots = s.slots := rfl
@[simp] theorem beginWrite_reservations (p : StorePage) (bs : List Byte) (s : State) : (beginWrite p bs s).reservations = s.reservations := rfl
@[simp] theorem beginWrite_trains (p : StorePage) (bs : List Byte) (s : State) : (beginWrite p bs s).trains = s.trains := rfl
@[simp] theorem beginWrite_tt (p : StorePage) (bs : List Byte) (s : State) : (beginWrite p bs s).tt = s.tt := rfl
@[simp] theorem beginWrite_announcements (p : StorePage) (bs : List Byte) (s : State) : (beginWrite p bs s).announcements = s.announcements := rfl
@[simp] theorem beginWrite_depBoards (p : StorePage) (bs : List Byte) (s : State) : (beginWrite p bs s).depBoards = s.depBoards := rfl
@[simp] theorem beginWrite_openDay (p : StorePage) (bs : List Byte) (s : State) : (beginWrite p bs s).openDay = s.openDay := rfl
@[simp] theorem beginWrite_buttons (p : StorePage) (bs : List Byte) (s : State) : (beginWrite p bs s).buttons = s.buttons := rfl
@[simp] theorem beginWrite_boards (p : StorePage) (bs : List Byte) (s : State) : (beginWrite p bs s).boards = s.boards := rfl
@[simp] theorem beginWrite_fieldLink (p : StorePage) (bs : List Byte) (s : State) : (beginWrite p bs s).fieldLink = s.fieldLink := rfl
@[simp] theorem beginWrite_stations (p : StorePage) (bs : List Byte) (s : State) : (beginWrite p bs s).stations = s.stations := rfl
@[simp] theorem beginWrite_stationsRead (p : StorePage) (bs : List Byte) (s : State) : (beginWrite p bs s).stationsRead = s.stationsRead := rfl
@[simp] theorem beginWrite_panelLink (p : StorePage) (bs : List Byte) (s : State) : (beginWrite p bs s).panelLink = s.panelLink := rfl
@[simp] theorem beginWrite_loadState (p : StorePage) (bs : List Byte) (s : State) : (beginWrite p bs s).loadState = s.loadState := rfl
@[simp] theorem beginWrite_linkRate (p : StorePage) (bs : List Byte) (s : State) : (beginWrite p bs s).linkRate = s.linkRate := rfl
@[simp] theorem beginWrite_storeDamaged (p : StorePage) (bs : List Byte) (s : State) : (beginWrite p bs s).storeDamaged = s.storeDamaged := rfl
@[simp] theorem beginWrite_loader (p : StorePage) (bs : List Byte) (s : State) : (beginWrite p bs s).loader = s.loader := rfl
@[simp] theorem beginWrite_imageVersion (p : StorePage) (bs : List Byte) (s : State) : (beginWrite p bs s).imageVersion = s.imageVersion := rfl
@[simp] theorem beginWrite_timing (p : StorePage) (bs : List Byte) (s : State) : (beginWrite p bs s).timing = s.timing := rfl
@[simp] theorem beginWrite_lastStoreResult (p : StorePage) (bs : List Byte) (s : State) : (beginWrite p bs s).lastStoreResult = s.lastStoreResult := rfl
@[simp] theorem beginWrite_layoutResetDue (p : StorePage) (bs : List Byte) (s : State) : (beginWrite p bs s).layoutResetDue = s.layoutResetDue := rfl
@[simp] theorem beginWrite_resetHeld (p : StorePage) (bs : List Byte) (s : State) : (beginWrite p bs s).resetHeld = s.resetHeld := rfl
@[simp] theorem beginWrite_store (p : StorePage) (bs : List Byte) (s : State) : (beginWrite p bs s).store = s.store := rfl
@[simp] theorem beginWrite_torn (p : StorePage) (bs : List Byte) (s : State) : (beginWrite p bs s).torn = s.torn := rfl
@[simp] theorem beginWrite_freeCtr (p : StorePage) (bs : List Byte) (s : State) : (beginWrite p bs s).freeCtr = s.freeCtr := rfl
@[simp] theorem beginWrite_pending (p : StorePage) (bs : List Byte) (s : State) : (beginWrite p bs s).pending = s.pending := rfl

/-! ### putPage -/

@[simp] theorem putPage_store (a : Nat) (bs : List Byte) (s : State) : (putPage a bs s).store = memWrites s.store a bs := rfl
@[simp] theorem putPage_sections (a : Nat) (bs : List Byte) (s : State) : (putPage a bs s).sections = s.sections := rfl
@[simp] theorem putPage_districts (a : Nat) (bs : List Byte) (s : State) : (putPage a bs s).districts = s.districts := rfl
@[simp] theorem putPage_signals (a : Nat) (bs : List Byte) (s : State) : (putPage a bs s).signals = s.signals := rfl
@[simp] theorem putPage_points (a : Nat) (bs : List Byte) (s : State) : (putPage a bs s).points = s.points := rfl
@[simp] theorem putPage_throwQueue (a : Nat) (bs : List Byte) (s : State) : (putPage a bs s).throwQueue = s.throwQueue := rfl
@[simp] theorem putPage_rechargeTimer (a : Nat) (bs : List Byte) (s : State) : (putPage a bs s).rechargeTimer = s.rechargeTimer := rfl
@[simp] theorem putPage_slots (a : Nat) (bs : List Byte) (s : State) : (putPage a bs s).slots = s.slots := rfl
@[simp] theorem putPage_reservations (a : Nat) (bs : List Byte) (s : State) : (putPage a bs s).reservations = s.reservations := rfl
@[simp] theorem putPage_trains (a : Nat) (bs : List Byte) (s : State) : (putPage a bs s).trains = s.trains := rfl
@[simp] theorem putPage_tt (a : Nat) (bs : List Byte) (s : State) : (putPage a bs s).tt = s.tt := rfl
@[simp] theorem putPage_announcements (a : Nat) (bs : List Byte) (s : State) : (putPage a bs s).announcements = s.announcements := rfl
@[simp] theorem putPage_depBoards (a : Nat) (bs : List Byte) (s : State) : (putPage a bs s).depBoards = s.depBoards := rfl
@[simp] theorem putPage_openDay (a : Nat) (bs : List Byte) (s : State) : (putPage a bs s).openDay = s.openDay := rfl
@[simp] theorem putPage_buttons (a : Nat) (bs : List Byte) (s : State) : (putPage a bs s).buttons = s.buttons := rfl
@[simp] theorem putPage_boards (a : Nat) (bs : List Byte) (s : State) : (putPage a bs s).boards = s.boards := rfl
@[simp] theorem putPage_fieldLink (a : Nat) (bs : List Byte) (s : State) : (putPage a bs s).fieldLink = s.fieldLink := rfl
@[simp] theorem putPage_stations (a : Nat) (bs : List Byte) (s : State) : (putPage a bs s).stations = s.stations := rfl
@[simp] theorem putPage_stationsRead (a : Nat) (bs : List Byte) (s : State) : (putPage a bs s).stationsRead = s.stationsRead := rfl
@[simp] theorem putPage_panelLink (a : Nat) (bs : List Byte) (s : State) : (putPage a bs s).panelLink = s.panelLink := rfl
@[simp] theorem putPage_loadState (a : Nat) (bs : List Byte) (s : State) : (putPage a bs s).loadState = s.loadState := rfl
@[simp] theorem putPage_linkRate (a : Nat) (bs : List Byte) (s : State) : (putPage a bs s).linkRate = s.linkRate := rfl
@[simp] theorem putPage_storeDamaged (a : Nat) (bs : List Byte) (s : State) : (putPage a bs s).storeDamaged = s.storeDamaged := rfl
@[simp] theorem putPage_loader (a : Nat) (bs : List Byte) (s : State) : (putPage a bs s).loader = s.loader := rfl
@[simp] theorem putPage_imageVersion (a : Nat) (bs : List Byte) (s : State) : (putPage a bs s).imageVersion = s.imageVersion := rfl
@[simp] theorem putPage_timing (a : Nat) (bs : List Byte) (s : State) : (putPage a bs s).timing = s.timing := rfl
@[simp] theorem putPage_write (a : Nat) (bs : List Byte) (s : State) : (putPage a bs s).write = s.write := rfl
@[simp] theorem putPage_lastStoreResult (a : Nat) (bs : List Byte) (s : State) : (putPage a bs s).lastStoreResult = s.lastStoreResult := rfl
@[simp] theorem putPage_layoutResetDue (a : Nat) (bs : List Byte) (s : State) : (putPage a bs s).layoutResetDue = s.layoutResetDue := rfl
@[simp] theorem putPage_resetHeld (a : Nat) (bs : List Byte) (s : State) : (putPage a bs s).resetHeld = s.resetHeld := rfl
@[simp] theorem putPage_freeCtr (a : Nat) (bs : List Byte) (s : State) : (putPage a bs s).freeCtr = s.freeCtr := rfl
@[simp] theorem putPage_pending (a : Nat) (bs : List Byte) (s : State) : (putPage a bs s).pending = s.pending := rfl

/-! ### putWritten -/

@[simp] theorem putWritten_store (w : StoreWrite) (s : State) : (putWritten w s).store = memWrites s.store w.page.address w.bytes := rfl
@[simp] theorem putWritten_sections (w : StoreWrite) (s : State) : (putWritten w s).sections = s.sections := rfl
@[simp] theorem putWritten_districts (w : StoreWrite) (s : State) : (putWritten w s).districts = s.districts := rfl
@[simp] theorem putWritten_signals (w : StoreWrite) (s : State) : (putWritten w s).signals = s.signals := rfl
@[simp] theorem putWritten_points (w : StoreWrite) (s : State) : (putWritten w s).points = s.points := rfl
@[simp] theorem putWritten_throwQueue (w : StoreWrite) (s : State) : (putWritten w s).throwQueue = s.throwQueue := rfl
@[simp] theorem putWritten_rechargeTimer (w : StoreWrite) (s : State) : (putWritten w s).rechargeTimer = s.rechargeTimer := rfl
@[simp] theorem putWritten_slots (w : StoreWrite) (s : State) : (putWritten w s).slots = s.slots := rfl
@[simp] theorem putWritten_reservations (w : StoreWrite) (s : State) : (putWritten w s).reservations = s.reservations := rfl
@[simp] theorem putWritten_trains (w : StoreWrite) (s : State) : (putWritten w s).trains = s.trains := rfl
@[simp] theorem putWritten_tt (w : StoreWrite) (s : State) : (putWritten w s).tt = s.tt := rfl
@[simp] theorem putWritten_announcements (w : StoreWrite) (s : State) : (putWritten w s).announcements = s.announcements := rfl
@[simp] theorem putWritten_depBoards (w : StoreWrite) (s : State) : (putWritten w s).depBoards = s.depBoards := rfl
@[simp] theorem putWritten_openDay (w : StoreWrite) (s : State) : (putWritten w s).openDay = s.openDay := rfl
@[simp] theorem putWritten_buttons (w : StoreWrite) (s : State) : (putWritten w s).buttons = s.buttons := rfl
@[simp] theorem putWritten_boards (w : StoreWrite) (s : State) : (putWritten w s).boards = s.boards := rfl
@[simp] theorem putWritten_fieldLink (w : StoreWrite) (s : State) : (putWritten w s).fieldLink = s.fieldLink := rfl
@[simp] theorem putWritten_stations (w : StoreWrite) (s : State) : (putWritten w s).stations = s.stations := rfl
@[simp] theorem putWritten_stationsRead (w : StoreWrite) (s : State) : (putWritten w s).stationsRead = s.stationsRead := rfl
@[simp] theorem putWritten_panelLink (w : StoreWrite) (s : State) : (putWritten w s).panelLink = s.panelLink := rfl
@[simp] theorem putWritten_loadState (w : StoreWrite) (s : State) : (putWritten w s).loadState = s.loadState := rfl
@[simp] theorem putWritten_linkRate (w : StoreWrite) (s : State) : (putWritten w s).linkRate = s.linkRate := rfl
@[simp] theorem putWritten_storeDamaged (w : StoreWrite) (s : State) : (putWritten w s).storeDamaged = s.storeDamaged := rfl
@[simp] theorem putWritten_loader (w : StoreWrite) (s : State) : (putWritten w s).loader = s.loader := rfl
@[simp] theorem putWritten_imageVersion (w : StoreWrite) (s : State) : (putWritten w s).imageVersion = s.imageVersion := rfl
@[simp] theorem putWritten_timing (w : StoreWrite) (s : State) : (putWritten w s).timing = s.timing := rfl
@[simp] theorem putWritten_write (w : StoreWrite) (s : State) : (putWritten w s).write = s.write := rfl
@[simp] theorem putWritten_lastStoreResult (w : StoreWrite) (s : State) : (putWritten w s).lastStoreResult = s.lastStoreResult := rfl
@[simp] theorem putWritten_layoutResetDue (w : StoreWrite) (s : State) : (putWritten w s).layoutResetDue = s.layoutResetDue := rfl
@[simp] theorem putWritten_resetHeld (w : StoreWrite) (s : State) : (putWritten w s).resetHeld = s.resetHeld := rfl
@[simp] theorem putWritten_freeCtr (w : StoreWrite) (s : State) : (putWritten w s).freeCtr = s.freeCtr := rfl
@[simp] theorem putWritten_pending (w : StoreWrite) (s : State) : (putWritten w s).pending = s.pending := rfl

/-! ### clearFlags -/

@[simp] theorem clearFlags_stations (st : StationId) (s : State) : (clearFlags st s).stations = tupd s.stations st fun e => { e with flags := tall 12 false } := rfl
@[simp] theorem clearFlags_sections (st : StationId) (s : State) : (clearFlags st s).sections = s.sections := rfl
@[simp] theorem clearFlags_districts (st : StationId) (s : State) : (clearFlags st s).districts = s.districts := rfl
@[simp] theorem clearFlags_signals (st : StationId) (s : State) : (clearFlags st s).signals = s.signals := rfl
@[simp] theorem clearFlags_points (st : StationId) (s : State) : (clearFlags st s).points = s.points := rfl
@[simp] theorem clearFlags_throwQueue (st : StationId) (s : State) : (clearFlags st s).throwQueue = s.throwQueue := rfl
@[simp] theorem clearFlags_rechargeTimer (st : StationId) (s : State) : (clearFlags st s).rechargeTimer = s.rechargeTimer := rfl
@[simp] theorem clearFlags_slots (st : StationId) (s : State) : (clearFlags st s).slots = s.slots := rfl
@[simp] theorem clearFlags_reservations (st : StationId) (s : State) : (clearFlags st s).reservations = s.reservations := rfl
@[simp] theorem clearFlags_trains (st : StationId) (s : State) : (clearFlags st s).trains = s.trains := rfl
@[simp] theorem clearFlags_tt (st : StationId) (s : State) : (clearFlags st s).tt = s.tt := rfl
@[simp] theorem clearFlags_announcements (st : StationId) (s : State) : (clearFlags st s).announcements = s.announcements := rfl
@[simp] theorem clearFlags_depBoards (st : StationId) (s : State) : (clearFlags st s).depBoards = s.depBoards := rfl
@[simp] theorem clearFlags_openDay (st : StationId) (s : State) : (clearFlags st s).openDay = s.openDay := rfl
@[simp] theorem clearFlags_buttons (st : StationId) (s : State) : (clearFlags st s).buttons = s.buttons := rfl
@[simp] theorem clearFlags_boards (st : StationId) (s : State) : (clearFlags st s).boards = s.boards := rfl
@[simp] theorem clearFlags_fieldLink (st : StationId) (s : State) : (clearFlags st s).fieldLink = s.fieldLink := rfl
@[simp] theorem clearFlags_stationsRead (st : StationId) (s : State) : (clearFlags st s).stationsRead = s.stationsRead := rfl
@[simp] theorem clearFlags_panelLink (st : StationId) (s : State) : (clearFlags st s).panelLink = s.panelLink := rfl
@[simp] theorem clearFlags_loadState (st : StationId) (s : State) : (clearFlags st s).loadState = s.loadState := rfl
@[simp] theorem clearFlags_linkRate (st : StationId) (s : State) : (clearFlags st s).linkRate = s.linkRate := rfl
@[simp] theorem clearFlags_storeDamaged (st : StationId) (s : State) : (clearFlags st s).storeDamaged = s.storeDamaged := rfl
@[simp] theorem clearFlags_loader (st : StationId) (s : State) : (clearFlags st s).loader = s.loader := rfl
@[simp] theorem clearFlags_imageVersion (st : StationId) (s : State) : (clearFlags st s).imageVersion = s.imageVersion := rfl
@[simp] theorem clearFlags_timing (st : StationId) (s : State) : (clearFlags st s).timing = s.timing := rfl
@[simp] theorem clearFlags_write (st : StationId) (s : State) : (clearFlags st s).write = s.write := rfl
@[simp] theorem clearFlags_lastStoreResult (st : StationId) (s : State) : (clearFlags st s).lastStoreResult = s.lastStoreResult := rfl
@[simp] theorem clearFlags_layoutResetDue (st : StationId) (s : State) : (clearFlags st s).layoutResetDue = s.layoutResetDue := rfl
@[simp] theorem clearFlags_resetHeld (st : StationId) (s : State) : (clearFlags st s).resetHeld = s.resetHeld := rfl
@[simp] theorem clearFlags_store (st : StationId) (s : State) : (clearFlags st s).store = s.store := rfl
@[simp] theorem clearFlags_torn (st : StationId) (s : State) : (clearFlags st s).torn = s.torn := rfl
@[simp] theorem clearFlags_freeCtr (st : StationId) (s : State) : (clearFlags st s).freeCtr = s.freeCtr := rfl
@[simp] theorem clearFlags_pending (st : StationId) (s : State) : (clearFlags st s).pending = s.pending := rfl

end Sys2Proof.Machine
end

