-- ==== Sys2Proof/Laws/Flags.lean ====
section
/-! SUPPORT. Setting an event flag (10.3) changes nothing but the station table. -/

namespace Sys2Proof.Machine

/-- Setting a flag changes the station table alone. -/
theorem setFlag_eq (f : EventFlag) (st : StationId) (s : State) :
    setFlag f st s = { s with stations := (setFlag f st s).stations } := by
  unfold setFlag
  split <;> rfl

/-- Setting a flag for several stations changes the station table alone. -/
theorem setFlags_eq (f : EventFlag) (l : List StationId) (s : State) :
    setFlags f l s = { s with stations := (setFlags f l s).stations } := by
  unfold setFlags
  induction l generalizing s with
  | nil => rfl
  | cons st rest ih =>
    rw [forEach_cons, ih (setFlag f st s), setFlag_eq]

theorem setOwnerFlag_eq (f : EventFlag) (o : Owner) (s : State) :
    setOwnerFlag f o s = { s with stations := (setOwnerFlag f o s).stations } := by
  cases o
  · exact setFlag_eq f _ s
  · rfl

/-! ### setFlag -/

@[simp] theorem setFlag_sections (f : EventFlag) (st : StationId) (s : State) : (setFlag f st s).sections = s.sections := by rw [setFlag_eq]
@[simp] theorem setFlag_districts (f : EventFlag) (st : StationId) (s : State) : (setFlag f st s).districts = s.districts := by rw [setFlag_eq]
@[simp] theorem setFlag_signals (f : EventFlag) (st : StationId) (s : State) : (setFlag f st s).signals = s.signals := by rw [setFlag_eq]
@[simp] theorem setFlag_points (f : EventFlag) (st : StationId) (s : State) : (setFlag f st s).points = s.points := by rw [setFlag_eq]
@[simp] theorem setFlag_throwQueue (f : EventFlag) (st : StationId) (s : State) : (setFlag f st s).throwQueue = s.throwQueue := by rw [setFlag_eq]
@[simp] theorem setFlag_rechargeTimer (f : EventFlag) (st : StationId) (s : State) : (setFlag f st s).rechargeTimer = s.rechargeTimer := by rw [setFlag_eq]
@[simp] theorem setFlag_slots (f : EventFlag) (st : StationId) (s : State) : (setFlag f st s).slots = s.slots := by rw [setFlag_eq]
@[simp] theorem setFlag_reservations (f : EventFlag) (st : StationId) (s : State) : (setFlag f st s).reservations = s.reservations := by rw [setFlag_eq]
@[simp] theorem setFlag_trains (f : EventFlag) (st : StationId) (s : State) : (setFlag f st s).trains = s.trains := by rw [setFlag_eq]
@[simp] theorem setFlag_tt (f : EventFlag) (st : StationId) (s : State) : (setFlag f st s).tt = s.tt := by rw [setFlag_eq]
@[simp] theorem setFlag_announcements (f : EventFlag) (st : StationId) (s : State) : (setFlag f st s).announcements = s.announcements := by rw [setFlag_eq]
@[simp] theorem setFlag_depBoards (f : EventFlag) (st : StationId) (s : State) : (setFlag f st s).depBoards = s.depBoards := by rw [setFlag_eq]
@[simp] theorem setFlag_openDay (f : EventFlag) (st : StationId) (s : State) : (setFlag f st s).openDay = s.openDay := by rw [setFlag_eq]
@[simp] theorem setFlag_buttons (f : EventFlag) (st : StationId) (s : State) : (setFlag f st s).buttons = s.buttons := by rw [setFlag_eq]
@[simp] theorem setFlag_boards (f : EventFlag) (st : StationId) (s : State) : (setFlag f st s).boards = s.boards := by rw [setFlag_eq]
@[simp] theorem setFlag_fieldLink (f : EventFlag) (st : StationId) (s : State) : (setFlag f st s).fieldLink = s.fieldLink := by rw [setFlag_eq]
@[simp] theorem setFlag_stationsRead (f : EventFlag) (st : StationId) (s : State) : (setFlag f st s).stationsRead = s.stationsRead := by rw [setFlag_eq]
@[simp] theorem setFlag_panelLink (f : EventFlag) (st : StationId) (s : State) : (setFlag f st s).panelLink = s.panelLink := by rw [setFlag_eq]
@[simp] theorem setFlag_loadState (f : EventFlag) (st : StationId) (s : State) : (setFlag f st s).loadState = s.loadState := by rw [setFlag_eq]
@[simp] theorem setFlag_linkRate (f : EventFlag) (st : StationId) (s : State) : (setFlag f st s).linkRate = s.linkRate := by rw [setFlag_eq]
@[simp] theorem setFlag_storeDamaged (f : EventFlag) (st : StationId) (s : State) : (setFlag f st s).storeDamaged = s.storeDamaged := by rw [setFlag_eq]
@[simp] theorem setFlag_loader (f : EventFlag) (st : StationId) (s : State) : (setFlag f st s).loader = s.loader := by rw [setFlag_eq]
@[simp] theorem setFlag_imageVersion (f : EventFlag) (st : StationId) (s : State) : (setFlag f st s).imageVersion = s.imageVersion := by rw [setFlag_eq]
@[simp] theorem setFlag_timing (f : EventFlag) (st : StationId) (s : State) : (setFlag f st s).timing = s.timing := by rw [setFlag_eq]
@[simp] theorem setFlag_write (f : EventFlag) (st : StationId) (s : State) : (setFlag f st s).write = s.write := by rw [setFlag_eq]
@[simp] theorem setFlag_lastStoreResult (f : EventFlag) (st : StationId) (s : State) : (setFlag f st s).lastStoreResult = s.lastStoreResult := by rw [setFlag_eq]
@[simp] theorem setFlag_layoutResetDue (f : EventFlag) (st : StationId) (s : State) : (setFlag f st s).layoutResetDue = s.layoutResetDue := by rw [setFlag_eq]
@[simp] theorem setFlag_resetHeld (f : EventFlag) (st : StationId) (s : State) : (setFlag f st s).resetHeld = s.resetHeld := by rw [setFlag_eq]
@[simp] theorem setFlag_store (f : EventFlag) (st : StationId) (s : State) : (setFlag f st s).store = s.store := by rw [setFlag_eq]
@[simp] theorem setFlag_torn (f : EventFlag) (st : StationId) (s : State) : (setFlag f st s).torn = s.torn := by rw [setFlag_eq]
@[simp] theorem setFlag_freeCtr (f : EventFlag) (st : StationId) (s : State) : (setFlag f st s).freeCtr = s.freeCtr := by rw [setFlag_eq]
@[simp] theorem setFlag_pending (f : EventFlag) (st : StationId) (s : State) : (setFlag f st s).pending = s.pending := by rw [setFlag_eq]

/-! ### setFlags -/

@[simp] theorem setFlags_sections (f : EventFlag) (l : List StationId) (s : State) : (setFlags f l s).sections = s.sections := by rw [setFlags_eq]
@[simp] theorem setFlags_districts (f : EventFlag) (l : List StationId) (s : State) : (setFlags f l s).districts = s.districts := by rw [setFlags_eq]
@[simp] theorem setFlags_signals (f : EventFlag) (l : List StationId) (s : State) : (setFlags f l s).signals = s.signals := by rw [setFlags_eq]
@[simp] theorem setFlags_points (f : EventFlag) (l : List StationId) (s : State) : (setFlags f l s).points = s.points := by rw [setFlags_eq]
@[simp] theorem setFlags_throwQueue (f : EventFlag) (l : List StationId) (s : State) : (setFlags f l s).throwQueue = s.throwQueue := by rw [setFlags_eq]
@[simp] theorem setFlags_rechargeTimer (f : EventFlag) (l : List StationId) (s : State) : (setFlags f l s).rechargeTimer = s.rechargeTimer := by rw [setFlags_eq]
@[simp] theorem setFlags_slots (f : EventFlag) (l : List StationId) (s : State) : (setFlags f l s).slots = s.slots := by rw [setFlags_eq]
@[simp] theorem setFlags_reservations (f : EventFlag) (l : List StationId) (s : State) : (setFlags f l s).reservations = s.reservations := by rw [setFlags_eq]
@[simp] theorem setFlags_trains (f : EventFlag) (l : List StationId) (s : State) : (setFlags f l s).trains = s.trains := by rw [setFlags_eq]
@[simp] theorem setFlags_tt (f : EventFlag) (l : List StationId) (s : State) : (setFlags f l s).tt = s.tt := by rw [setFlags_eq]
@[simp] theorem setFlags_announcements (f : EventFlag) (l : List StationId) (s : State) : (setFlags f l s).announcements = s.announcements := by rw [setFlags_eq]
@[simp] theorem setFlags_depBoards (f : EventFlag) (l : List StationId) (s : State) : (setFlags f l s).depBoards = s.depBoards := by rw [setFlags_eq]
@[simp] theorem setFlags_openDay (f : EventFlag) (l : List StationId) (s : State) : (setFlags f l s).openDay = s.openDay := by rw [setFlags_eq]
@[simp] theorem setFlags_buttons (f : EventFlag) (l : List StationId) (s : State) : (setFlags f l s).buttons = s.buttons := by rw [setFlags_eq]
@[simp] theorem setFlags_boards (f : EventFlag) (l : List StationId) (s : State) : (setFlags f l s).boards = s.boards := by rw [setFlags_eq]
@[simp] theorem setFlags_fieldLink (f : EventFlag) (l : List StationId) (s : State) : (setFlags f l s).fieldLink = s.fieldLink := by rw [setFlags_eq]
@[simp] theorem setFlags_stationsRead (f : EventFlag) (l : List StationId) (s : State) : (setFlags f l s).stationsRead = s.stationsRead := by rw [setFlags_eq]
@[simp] theorem setFlags_panelLink (f : EventFlag) (l : List StationId) (s : State) : (setFlags f l s).panelLink = s.panelLink := by rw [setFlags_eq]
@[simp] theorem setFlags_loadState (f : EventFlag) (l : List StationId) (s : State) : (setFlags f l s).loadState = s.loadState := by rw [setFlags_eq]
@[simp] theorem setFlags_linkRate (f : EventFlag) (l : List StationId) (s : State) : (setFlags f l s).linkRate = s.linkRate := by rw [setFlags_eq]
@[simp] theorem setFlags_storeDamaged (f : EventFlag) (l : List StationId) (s : State) : (setFlags f l s).storeDamaged = s.storeDamaged := by rw [setFlags_eq]
@[simp] theorem setFlags_loader (f : EventFlag) (l : List StationId) (s : State) : (setFlags f l s).loader = s.loader := by rw [setFlags_eq]
@[simp] theorem setFlags_imageVersion (f : EventFlag) (l : List StationId) (s : State) : (setFlags f l s).imageVersion = s.imageVersion := by rw [setFlags_eq]
@[simp] theorem setFlags_timing (f : EventFlag) (l : List StationId) (s : State) : (setFlags f l s).timing = s.timing := by rw [setFlags_eq]
@[simp] theorem setFlags_write (f : EventFlag) (l : List StationId) (s : State) : (setFlags f l s).write = s.write := by rw [setFlags_eq]
@[simp] theorem setFlags_lastStoreResult (f : EventFlag) (l : List StationId) (s : State) : (setFlags f l s).lastStoreResult = s.lastStoreResult := by rw [setFlags_eq]
@[simp] theorem setFlags_layoutResetDue (f : EventFlag) (l : List StationId) (s : State) : (setFlags f l s).layoutResetDue = s.layoutResetDue := by rw [setFlags_eq]
@[simp] theorem setFlags_resetHeld (f : EventFlag) (l : List StationId) (s : State) : (setFlags f l s).resetHeld = s.resetHeld := by rw [setFlags_eq]
@[simp] theorem setFlags_store (f : EventFlag) (l : List StationId) (s : State) : (setFlags f l s).store = s.store := by rw [setFlags_eq]
@[simp] theorem setFlags_torn (f : EventFlag) (l : List StationId) (s : State) : (setFlags f l s).torn = s.torn := by rw [setFlags_eq]
@[simp] theorem setFlags_freeCtr (f : EventFlag) (l : List StationId) (s : State) : (setFlags f l s).freeCtr = s.freeCtr := by rw [setFlags_eq]
@[simp] theorem setFlags_pending (f : EventFlag) (l : List StationId) (s : State) : (setFlags f l s).pending = s.pending := by rw [setFlags_eq]

/-! ### setOwnerFlag -/

@[simp] theorem setOwnerFlag_sections (f : EventFlag) (o : Owner) (s : State) : (setOwnerFlag f o s).sections = s.sections := by rw [setOwnerFlag_eq]
@[simp] theorem setOwnerFlag_districts (f : EventFlag) (o : Owner) (s : State) : (setOwnerFlag f o s).districts = s.districts := by rw [setOwnerFlag_eq]
@[simp] theorem setOwnerFlag_signals (f : EventFlag) (o : Owner) (s : State) : (setOwnerFlag f o s).signals = s.signals := by rw [setOwnerFlag_eq]
@[simp] theorem setOwnerFlag_points (f : EventFlag) (o : Owner) (s : State) : (setOwnerFlag f o s).points = s.points := by rw [setOwnerFlag_eq]
@[simp] theorem setOwnerFlag_throwQueue (f : EventFlag) (o : Owner) (s : State) : (setOwnerFlag f o s).throwQueue = s.throwQueue := by rw [setOwnerFlag_eq]
@[simp] theorem setOwnerFlag_rechargeTimer (f : EventFlag) (o : Owner) (s : State) : (setOwnerFlag f o s).rechargeTimer = s.rechargeTimer := by rw [setOwnerFlag_eq]
@[simp] theorem setOwnerFlag_slots (f : EventFlag) (o : Owner) (s : State) : (setOwnerFlag f o s).slots = s.slots := by rw [setOwnerFlag_eq]
@[simp] theorem setOwnerFlag_reservations (f : EventFlag) (o : Owner) (s : State) : (setOwnerFlag f o s).reservations = s.reservations := by rw [setOwnerFlag_eq]
@[simp] theorem setOwnerFlag_trains (f : EventFlag) (o : Owner) (s : State) : (setOwnerFlag f o s).trains = s.trains := by rw [setOwnerFlag_eq]
@[simp] theorem setOwnerFlag_tt (f : EventFlag) (o : Owner) (s : State) : (setOwnerFlag f o s).tt = s.tt := by rw [setOwnerFlag_eq]
@[simp] theorem setOwnerFlag_announcements (f : EventFlag) (o : Owner) (s : State) : (setOwnerFlag f o s).announcements = s.announcements := by rw [setOwnerFlag_eq]
@[simp] theorem setOwnerFlag_depBoards (f : EventFlag) (o : Owner) (s : State) : (setOwnerFlag f o s).depBoards = s.depBoards := by rw [setOwnerFlag_eq]
@[simp] theorem setOwnerFlag_openDay (f : EventFlag) (o : Owner) (s : State) : (setOwnerFlag f o s).openDay = s.openDay := by rw [setOwnerFlag_eq]
@[simp] theorem setOwnerFlag_buttons (f : EventFlag) (o : Owner) (s : State) : (setOwnerFlag f o s).buttons = s.buttons := by rw [setOwnerFlag_eq]
@[simp] theorem setOwnerFlag_boards (f : EventFlag) (o : Owner) (s : State) : (setOwnerFlag f o s).boards = s.boards := by rw [setOwnerFlag_eq]
@[simp] theorem setOwnerFlag_fieldLink (f : EventFlag) (o : Owner) (s : State) : (setOwnerFlag f o s).fieldLink = s.fieldLink := by rw [setOwnerFlag_eq]
@[simp] theorem setOwnerFlag_stationsRead (f : EventFlag) (o : Owner) (s : State) : (setOwnerFlag f o s).stationsRead = s.stationsRead := by rw [setOwnerFlag_eq]
@[simp] theorem setOwnerFlag_panelLink (f : EventFlag) (o : Owner) (s : State) : (setOwnerFlag f o s).panelLink = s.panelLink := by rw [setOwnerFlag_eq]
@[simp] theorem setOwnerFlag_loadState (f : EventFlag) (o : Owner) (s : State) : (setOwnerFlag f o s).loadState = s.loadState := by rw [setOwnerFlag_eq]
@[simp] theorem setOwnerFlag_linkRate (f : EventFlag) (o : Owner) (s : State) : (setOwnerFlag f o s).linkRate = s.linkRate := by rw [setOwnerFlag_eq]
@[simp] theorem setOwnerFlag_storeDamaged (f : EventFlag) (o : Owner) (s : State) : (setOwnerFlag f o s).storeDamaged = s.storeDamaged := by rw [setOwnerFlag_eq]
@[simp] theorem setOwnerFlag_loader (f : EventFlag) (o : Owner) (s : State) : (setOwnerFlag f o s).loader = s.loader := by rw [setOwnerFlag_eq]
@[simp] theorem setOwnerFlag_imageVersion (f : EventFlag) (o : Owner) (s : State) : (setOwnerFlag f o s).imageVersion = s.imageVersion := by rw [setOwnerFlag_eq]
@[simp] theorem setOwnerFlag_timing (f : EventFlag) (o : Owner) (s : State) : (setOwnerFlag f o s).timing = s.timing := by rw [setOwnerFlag_eq]
@[simp] theorem setOwnerFlag_write (f : EventFlag) (o : Owner) (s : State) : (setOwnerFlag f o s).write = s.write := by rw [setOwnerFlag_eq]
@[simp] theorem setOwnerFlag_lastStoreResult (f : EventFlag) (o : Owner) (s : State) : (setOwnerFlag f o s).lastStoreResult = s.lastStoreResult := by rw [setOwnerFlag_eq]
@[simp] theorem setOwnerFlag_layoutResetDue (f : EventFlag) (o : Owner) (s : State) : (setOwnerFlag f o s).layoutResetDue = s.layoutResetDue := by rw [setOwnerFlag_eq]
@[simp] theorem setOwnerFlag_resetHeld (f : EventFlag) (o : Owner) (s : State) : (setOwnerFlag f o s).resetHeld = s.resetHeld := by rw [setOwnerFlag_eq]
@[simp] theorem setOwnerFlag_store (f : EventFlag) (o : Owner) (s : State) : (setOwnerFlag f o s).store = s.store := by rw [setOwnerFlag_eq]
@[simp] theorem setOwnerFlag_torn (f : EventFlag) (o : Owner) (s : State) : (setOwnerFlag f o s).torn = s.torn := by rw [setOwnerFlag_eq]
@[simp] theorem setOwnerFlag_freeCtr (f : EventFlag) (o : Owner) (s : State) : (setOwnerFlag f o s).freeCtr = s.freeCtr := by rw [setOwnerFlag_eq]
@[simp] theorem setOwnerFlag_pending (f : EventFlag) (o : Owner) (s : State) : (setOwnerFlag f o s).pending = s.pending := by rw [setOwnerFlag_eq]

/-! ### setFlagAll -/

@[simp] theorem setFlagAll_sections (f : EventFlag) (s : State) : (setFlagAll f s).sections = s.sections := setFlags_sections f _ s
@[simp] theorem setFlagAll_districts (f : EventFlag) (s : State) : (setFlagAll f s).districts = s.districts := setFlags_districts f _ s
@[simp] theorem setFlagAll_signals (f : EventFlag) (s : State) : (setFlagAll f s).signals = s.signals := setFlags_signals f _ s
@[simp] theorem setFlagAll_points (f : EventFlag) (s : State) : (setFlagAll f s).points = s.points := setFlags_points f _ s
@[simp] theorem setFlagAll_throwQueue (f : EventFlag) (s : State) : (setFlagAll f s).throwQueue = s.throwQueue := setFlags_throwQueue f _ s
@[simp] theorem setFlagAll_rechargeTimer (f : EventFlag) (s : State) : (setFlagAll f s).rechargeTimer = s.rechargeTimer := setFlags_rechargeTimer f _ s
@[simp] theorem setFlagAll_slots (f : EventFlag) (s : State) : (setFlagAll f s).slots = s.slots := setFlags_slots f _ s
@[simp] theorem setFlagAll_reservations (f : EventFlag) (s : State) : (setFlagAll f s).reservations = s.reservations := setFlags_reservations f _ s
@[simp] theorem setFlagAll_trains (f : EventFlag) (s : State) : (setFlagAll f s).trains = s.trains := setFlags_trains f _ s
@[simp] theorem setFlagAll_tt (f : EventFlag) (s : State) : (setFlagAll f s).tt = s.tt := setFlags_tt f _ s
@[simp] theorem setFlagAll_announcements (f : EventFlag) (s : State) : (setFlagAll f s).announcements = s.announcements := setFlags_announcements f _ s
@[simp] theorem setFlagAll_depBoards (f : EventFlag) (s : State) : (setFlagAll f s).depBoards = s.depBoards := setFlags_depBoards f _ s
@[simp] theorem setFlagAll_openDay (f : EventFlag) (s : State) : (setFlagAll f s).openDay = s.openDay := setFlags_openDay f _ s
@[simp] theorem setFlagAll_buttons (f : EventFlag) (s : State) : (setFlagAll f s).buttons = s.buttons := setFlags_buttons f _ s
@[simp] theorem setFlagAll_boards (f : EventFlag) (s : State) : (setFlagAll f s).boards = s.boards := setFlags_boards f _ s
@[simp] theorem setFlagAll_fieldLink (f : EventFlag) (s : State) : (setFlagAll f s).fieldLink = s.fieldLink := setFlags_fieldLink f _ s
@[simp] theorem setFlagAll_stationsRead (f : EventFlag) (s : State) : (setFlagAll f s).stationsRead = s.stationsRead := setFlags_stationsRead f _ s
@[simp] theorem setFlagAll_panelLink (f : EventFlag) (s : State) : (setFlagAll f s).panelLink = s.panelLink := setFlags_panelLink f _ s
@[simp] theorem setFlagAll_loadState (f : EventFlag) (s : State) : (setFlagAll f s).loadState = s.loadState := setFlags_loadState f _ s
@[simp] theorem setFlagAll_linkRate (f : EventFlag) (s : State) : (setFlagAll f s).linkRate = s.linkRate := setFlags_linkRate f _ s
@[simp] theorem setFlagAll_storeDamaged (f : EventFlag) (s : State) : (setFlagAll f s).storeDamaged = s.storeDamaged := setFlags_storeDamaged f _ s
@[simp] theorem setFlagAll_loader (f : EventFlag) (s : State) : (setFlagAll f s).loader = s.loader := setFlags_loader f _ s
@[simp] theorem setFlagAll_imageVersion (f : EventFlag) (s : State) : (setFlagAll f s).imageVersion = s.imageVersion := setFlags_imageVersion f _ s
@[simp] theorem setFlagAll_timing (f : EventFlag) (s : State) : (setFlagAll f s).timing = s.timing := setFlags_timing f _ s
@[simp] theorem setFlagAll_write (f : EventFlag) (s : State) : (setFlagAll f s).write = s.write := setFlags_write f _ s
@[simp] theorem setFlagAll_lastStoreResult (f : EventFlag) (s : State) : (setFlagAll f s).lastStoreResult = s.lastStoreResult := setFlags_lastStoreResult f _ s
@[simp] theorem setFlagAll_layoutResetDue (f : EventFlag) (s : State) : (setFlagAll f s).layoutResetDue = s.layoutResetDue := setFlags_layoutResetDue f _ s
@[simp] theorem setFlagAll_resetHeld (f : EventFlag) (s : State) : (setFlagAll f s).resetHeld = s.resetHeld := setFlags_resetHeld f _ s
@[simp] theorem setFlagAll_store (f : EventFlag) (s : State) : (setFlagAll f s).store = s.store := setFlags_store f _ s
@[simp] theorem setFlagAll_torn (f : EventFlag) (s : State) : (setFlagAll f s).torn = s.torn := setFlags_torn f _ s
@[simp] theorem setFlagAll_freeCtr (f : EventFlag) (s : State) : (setFlagAll f s).freeCtr = s.freeCtr := setFlags_freeCtr f _ s
@[simp] theorem setFlagAll_pending (f : EventFlag) (s : State) : (setFlagAll f s).pending = s.pending := setFlags_pending f _ s

end Sys2Proof.Machine
end

