-- ==== Sys2Proof/Laws/Keeps.lean ====
section
/-! SUPPORT. What the operations keep. `Keeps a s` says that `s` has the fixed part of `a`, and that each invariant of the
track, train and turntable tables that `a` has is one that `s` has. One lemma `<operation>_keeps` for each operation; this
file holds those of the operations that write a table. -/

namespace Sys2Proof.Machine

/-- From `a` to `s` the fixed part is unchanged and the invariants of the tables are kept. -/
structure Keeps (a s : State) : Prop where
  fixed : Machine.fixed s = Machine.fixed a
  sections : SectionsSound a → SectionsSound s
  districts : DistrictsSound a → DistrictsSound s
  points : PointsSound a → PointsSound s
  throws : ThrowsSound a → ThrowsSound s
  heads : HeadsSound a → HeadsSound s
  position : PositionSound a → PositionSound s

theorem Keeps.refl (a : State) : Keeps a a := ⟨rfl, id, id, id, id, id, id⟩

theorem Keeps.trans {a b c : State} (h : Keeps a b) (g : Keeps b c) : Keeps a c :=
  ⟨g.fixed.trans h.fixed, g.sections ∘ h.sections, g.districts ∘ h.districts, g.points ∘ h.points,
    g.throws ∘ h.throws, g.heads ∘ h.heads, g.position ∘ h.position⟩

/-- A change of nothing that the invariants speak of. -/
theorem Keeps.frame {a s t : State} (h : Keeps a s) (hf : Machine.fixed t = Machine.fixed s) (h1 : t.sections = s.sections)
    (h2 : t.districts = s.districts) (h3 : t.points = s.points) (h4 : t.throwQueue = s.throwQueue) (h5 : t.trains = s.trains)
    (h6 : t.tt.position = s.tt.position) (h7 : t.tt.state = s.tt.state) : Keeps a t := by
  refine ⟨hf.trans h.fixed, ?_, ?_, ?_, ?_, ?_, ?_⟩
  · unfold SectionsSound; rw [h1]; exact h.sections
  · unfold DistrictsSound; rw [h2]; exact h.districts
  · unfold PointsSound; rw [h3]; exact h.points
  · unfold ThrowsSound throwsInMotion; rw [h3, h4]; exact h.throws
  · unfold HeadsSound; rw [h5]; exact h.heads
  · unfold PositionSound; rw [h6, h7]; exact h.position

/-- A choice between two states that are kept. -/
theorem ite_keeps {a s t : State} {c : Prop} [Decidable c] (h : Keeps a s) (g : Keeps a t) :
    Keeps a (if c then s else t) := by
  split
  · exact h
  · exact g

/-- A walk of actions that keep. -/
@[simp] theorem forEach_keeps {ι : Type} {a s : State} (l : List ι) (f : ι → State → State)
    (hf : ∀ i s, Keeps a s → Keeps a (f i s)) (h : Keeps a s) : Keeps a (forEach l f s) := forEach_induct hf l h

/-! ### Flags (10.3) -/

@[simp] theorem setFlag_keeps {a s : State} (f : EventFlag) (st : StationId) (h : Keeps a s) : Keeps a (setFlag f st s) := by
  unfold setFlag
  split
  · exact h.frame (by simp [fixed, tmap_tupd]) rfl rfl rfl rfl rfl rfl rfl
  · exact h

@[simp] theorem setFlags_keeps {a s : State} (f : EventFlag) (l : List StationId) (h : Keeps a s) :
    Keeps a (setFlags f l s) := forEach_induct (fun st _ g => setFlag_keeps f st g) l h

@[simp] theorem setFlagAll_keeps {a s : State} (f : EventFlag) (h : Keeps a s) : Keeps a (setFlagAll f s) :=
  setFlags_keeps f _ h

@[simp] theorem setOwnerFlag_keeps {a s : State} (f : EventFlag) (o : Owner) (h : Keeps a s) : Keeps a (setOwnerFlag f o s) := by
  cases o
  · exact setFlag_keeps f _ h
  · exact h

@[simp] theorem clearFlags_keeps {a s : State} (st : StationId) (h : Keeps a s) : Keeps a (clearFlags st s) :=
  h.frame (by simp [fixed, tmap_tupd, clearFlags]) rfl rfl rfl rfl rfl rfl rfl

/-! ### Output images (R150) -/

@[simp] theorem setImage_keeps {a s : State} (b : BoardIdx) (f : OutputImage → OutputImage) (h : Keeps a s) :
    Keeps a (setImage b f s) := h.frame (by simp [fixed, tmap_tupd, setImage]) rfl rfl rfl rfl rfl rfl rfl

@[simp] theorem setDrive_keeps {a s : State} (b : BoardIdx) (c : Channel) (d : PointDrive) (h : Keeps a s) :
    Keeps a (setDrive b c d s) := setImage_keeps b _ h

@[simp] theorem setHead_keeps {a s : State} (b : BoardIdx) (c : Channel) (x : Aspect) (h : Keeps a s) :
    Keeps a (setHead b c x s) := setImage_keeps b _ h

@[simp] theorem setEnable_keeps {a s : State} (b : BoardIdx) (c : Channel) (on : Bool) (h : Keeps a s) :
    Keeps a (setEnable b c on s) := setImage_keeps b _ h

@[simp] theorem setLamp_keeps {a s : State} (b : BoardIdx) (c : Channel) (x : ButtonState) (h : Keeps a s) :
    Keeps a (setLamp b c x s) := setImage_keeps b _ h

/-! ### Tables without an invariant here -/

@[simp] theorem setRes_keeps {a s : State} (r : ResId) (x : Option Reservation) (h : Keeps a s) : Keeps a (setRes r x s) :=
  h.frame rfl rfl rfl rfl rfl rfl rfl rfl

@[simp] theorem updRes_keeps {a s : State} (r : ResId) (f : Reservation → Reservation) (h : Keeps a s) :
    Keeps a (updRes r f s) := h.frame rfl rfl rfl rfl rfl rfl rfl rfl

@[simp] theorem setLink_keeps {a s : State} (f : FieldLink → FieldLink) (h : Keeps a s) : Keeps a (setLink f s) :=
  h.frame rfl rfl rfl rfl rfl rfl rfl rfl

@[simp] theorem setPanel_keeps {a s : State} (f : PanelLink → PanelLink) (h : Keeps a s) : Keeps a (setPanel f s) :=
  h.frame rfl rfl rfl rfl rfl rfl rfl rfl

@[simp] theorem setBoard_keeps {a s : State} (b : BoardIdx) (f : BoardRec → BoardRec) (hf : ∀ e, (f e).type = e.type)
    (h : Keeps a s) : Keeps a (setBoard b f s) :=
  h.frame (by simp [fixed, tmap_tupd, setBoard, hf]) rfl rfl rfl rfl rfl rfl rfl

@[simp] theorem setStation_keeps {a s : State} (st : StationId) (f : StationRec → StationRec)
    (hf : ∀ e, (f e).enrolled = e.enrolled ∧ (f e).territory = e.territory) (h : Keeps a s) : Keeps a (setStation st f s) :=
  h.frame (by simp [fixed, tmap_tupd, setStation, hf]) rfl rfl rfl rfl rfl rfl rfl

/-- The aspect and the controlled field of a signal, and its entrance-of field. -/
theorem signals_keeps {a s : State} (sg : SignalId) (f : SignalRec → SignalRec) (hf : ∀ e, (f e).cfg = e.cfg)
    (h : Keeps a s) : Keeps a { s with signals := tupd s.signals sg f } :=
  h.frame (by simp [fixed, tmap_tupd, hf]) rfl rfl rfl rfl rfl rfl rfl

theorem depBoards_keeps {a s : State} (b : DepBoardId) (f : DepBoard → DepBoard) (hf : ∀ e, (f e).addr = e.addr)
    (h : Keeps a s) : Keeps a { s with depBoards := tupd s.depBoards b f } :=
  h.frame (by simp [fixed, tmap_tupd, hf]) rfl rfl rfl rfl rfl rfl rfl

theorem buttons_keeps {a s : State} (b : ButtonId) (f : ButtonRec → ButtonRec) (hf : ∀ e, (f e).cfg = e.cfg)
    (h : Keeps a s) : Keeps a { s with buttons := tupd s.buttons b f } :=
  h.frame (by simp [fixed, tmap_tupd, hf]) rfl rfl rfl rfl rfl rfl rfl

/-! ### Sections -/

theorem sections_keeps {a s : State} (n : SectionId) (f : SectionRec → SectionRec) (hc : ∀ e, (f e).cfg = e.cfg)
    (hf : ((tget s.sections n).occ = .clear → (tget s.sections n).clearTimer = none) →
      (f (tget s.sections n)).occ = .clear → (f (tget s.sections n)).clearTimer = none) (h : Keeps a s) :
    Keeps a { s with sections := tupd s.sections n f } := by
  refine ⟨?_, ?_, h.districts, h.points, h.throws, h.heads, h.position⟩
  · rw [← h.fixed]; simp [fixed, tmap_tupd, hc]
  · intro hs m
    have := h.sections hs m
    simp only [tget_tupd]
    split
    · next e => subst e; exact hf this
    · exact this

@[simp] theorem lockSection_keeps {a s : State} (n : SectionId) (r : ResId) (k : LockRole) (h : Keeps a s) :
    Keeps a (lockSection n r k s) := by
  unfold lockSection
  split
  · exact sections_keeps n _ (fun _ => rfl) (fun g => g) h
  · exact h

@[simp] theorem releaseSection_keeps {a s : State} (n : SectionId) (r : ResId) (h : Keeps a s) :
    Keeps a (releaseSection n r s) := by
  unfold releaseSection
  split
  · exact sections_keeps n _ (fun _ => rfl) (fun g => g) h
  · exact h

@[simp] theorem putOcc_keeps {a s : State} (n : SectionId) (x : Occupancy) (h : Keeps a s) : Keeps a (putOcc n x s) :=
  sections_keeps n _ (fun _ => rfl) (fun _ _ => rfl) h

@[simp] theorem clearReport_keeps {a s : State} (n : SectionId) (h : Keeps a s) : Keeps a (clearReport n s) := by
  unfold clearReport
  dsimp only
  split
  · exact h
  · next g =>
    refine sections_keeps n _ (fun _ => rfl) (fun _ e => ?_) h
    exact absurd (Or.inl e) g

/-! ### Districts -/

theorem setDistrict_keeps {a s : State} (d : DistrictId) (f : DistrictRec → DistrictRec) (hc : ∀ e, (f e).cfg = e.cfg)
    (hf : (tget s.districts d).Sound → (f (tget s.districts d)).Sound) (h : Keeps a s) : Keeps a (setDistrict d f s) := by
  refine ⟨?_, h.sections, ?_, h.points, h.throws, h.heads, h.position⟩
  · rw [← h.fixed]; simp [fixed, tmap_tupd, hc, setDistrict]
  · intro hs m
    have := h.districts hs m
    simp only [setDistrict_districts, tget_tupd]
    split
    · next e => subst e; exact hf this
    · exact this

/-! ### Points and the throw queue -/

/-- A change of one point that leaves whether it is MOVING alone, and keeps it sound. -/
theorem points_keeps {a s : State} (p : PointId) (f : PointRec → PointRec) (hc : ∀ e, (f e).cfg = e.cfg)
    (hf : (tget s.points p).Sound → (f (tget s.points p)).Sound)
    (hm : (f (tget s.points p)).state = .moving → (tget s.points p).state = .moving) (h : Keeps a s) :
    Keeps a { s with points := tupd s.points p f } := by
  refine ⟨?_, h.sections, h.districts, ?_, ?_, h.heads, h.position⟩
  · rw [← h.fixed]; simp [fixed, tmap_tupd, hc]
  · intro hs m
    have := h.points hs m
    simp only [tget_tupd]
    split
    · next e => subst e; exact hf this
    · exact this
  · intro hs
    obtain ⟨h1, h2, h3, h4⟩ := h.throws hs
    refine ⟨h1, h2, ?_, ?_⟩
    · intro o ho
      simp only [tget_tupd]
      split
      · next e =>
        intro g
        rw [← e] at g
        exact h3 o ho (by rw [← e]; exact hm g)
      · exact h3 o ho
    · refine le_trans ?_ h4
      exact idsWhere_tput_length_of_not _ _ _ _ (by simpa using hm)

/-- Orders leave the queue. -/
theorem queue_keeps {a s : State} (q : List ThrowOrder) (hq : q.Sublist s.throwQueue) (h : Keeps a s) :
    Keeps a { s with throwQueue := q } := by
  refine ⟨h.fixed, h.sections, h.districts, h.points, ?_, h.heads, h.position⟩
  intro hs
  obtain ⟨h1, h2, h3, h4⟩ := h.throws hs
  exact ⟨hq.length_le.trans h1, h2.sublist (hq.map _), fun o ho => h3 o (hq.subset ho), h4⟩

@[simp] theorem lockPoint_keeps {a s : State} (p : PointId) (r : ResId) (h : Keeps a s) : Keeps a (lockPoint p r s) := by
  unfold lockPoint
  split
  · next g =>
    refine points_keeps p _ (fun _ => rfl) (fun hs => ?_) (fun e => e) h
    unfold PointRec.Sound at hs ⊢
    split
    · next e =>
      rw [if_pos e] at hs
      exact hs
    · next e =>
      rw [if_neg e] at hs
      exact ⟨hs.1, hs.2.1, hs.2.2.1, hs.2.2.2.1, by simp⟩
  · exact h

@[simp] theorem releasePoint_keeps {a s : State} (p : PointId) (r : ResId) (h : Keeps a s) : Keeps a (releasePoint p r s) := by
  unfold releasePoint
  split
  · next g =>
    refine points_keeps p _ (fun _ => rfl) (fun hs => ?_) (fun e => e) h
    unfold PointRec.Sound at hs ⊢
    split
    · next e =>
      rw [if_pos e] at hs
      exact hs
    · next e =>
      rw [if_neg e] at hs
      exact ⟨hs.1, hs.2.1, hs.2.2.1, hs.2.2.2.1, by simp⟩
  · exact h

/-! ### Trains -/

/-- A change of one record that leaves its head alone, takes it away, or moves it to a section without a head. -/
theorem trains_keeps {a s : State} (t : TrainId) (x : Option Train)
    (hx : ∀ v n, x = some v → v.head = some n → ((tget s.trains t).bind (·.head) = some n ∨ headIn s n = none))
    (h : Keeps a s) : Keeps a { s with trains := tput s.trains t x } := by
  refine ⟨h.fixed, h.sections, h.districts, h.points, h.throws, ?_, h.position⟩
  intro hs t1 t2 v w n h1 h2 hv hw
  have hh := h.heads hs
  have key : ∀ u z m, t ≠ u → x = some z → z.head = some m → ∀ y, tget s.trains u = some y → y.head ≠ some m := by
    intro u z m hne hz hm y hy hym
    rcases hx z m hz hm with g | g
    · obtain ⟨o, ho, hom⟩ := Option.bind_eq_some_iff.mp g
      exact hne (hh t u o y m ho hy hom hym)
    · unfold headIn at g
      rw [List.head?_eq_none_iff] at g
      have : u ∈ idsWhere s.trains fun t => t.bind (·.head) == some m := by
        rw [mem_idsWhere, hy]; simp [hym]
      rw [g] at this
      simp at this
  simp only [tget_tput] at h1 h2
  by_cases e1 : t = t1 <;> by_cases e2 : t = t2
  · rw [← e1, ← e2]
  · rw [if_pos e1] at h1
    rw [if_neg e2] at h2
    exact absurd hw (key t2 v n e2 h1 hv w h2)
  · rw [if_neg e1] at h1
    rw [if_pos e2] at h2
    exact absurd hv (key t1 w n e1 h2 hw v h1)
  · rw [if_neg e1] at h1
    rw [if_neg e2] at h2
    exact hh t1 t2 v w n h1 h2 hv hw

theorem updTrain_keeps {a s : State} (t : TrainId) (f : Train → Train)
    (hf : ∀ v n, tget s.trains t = some v → (f v).head = some n → v.head = some n ∨ headIn s n = none) (h : Keeps a s) :
    Keeps a (updTrain t f s) := by
  refine trains_keeps t _ ?_ h
  intro v n hv hn
  obtain ⟨w, hw, e⟩ := Option.map_eq_some_iff.mp hv
  subst e
  rcases hf w n hw hn with g | g
  · left; simp [hw, g]
  · exact Or.inr g

/-- A change of a record that leaves its head alone. -/
@[simp] theorem updTrain_keeps_of_head {a s : State} (t : TrainId) (f : Train → Train) (hf : ∀ v, (f v).head = v.head)
    (h : Keeps a s) : Keeps a (updTrain t f s) := updTrain_keeps t f (fun v _ _ e => Or.inl (hf v ▸ e)) h

/-! ### The turntable -/

/-- A change of the turntable that keeps its configuration, its state and its position. -/
theorem setTt_keeps {a s : State} (f : Turntable → Turntable) (hc : ∀ t, (f t).cfg = t.cfg)
    (hp : PositionSound s → (f s.tt).position.isSome = (f s.tt).state.positioned) (h : Keeps a s) : Keeps a (setTt f s) := by
  refine ⟨?_, h.sections, h.districts, h.points, h.throws, h.heads, fun g => hp (h.position g)⟩
  rw [← h.fixed]; simp [fixed, hc]

@[simp] theorem setTt_keeps_of_same {a s : State} (f : Turntable → Turntable) (hc : ∀ t, (f t).cfg = t.cfg)
    (h1 : ∀ t, (f t).state = t.state) (h2 : ∀ t, (f t).position = t.position) (h : Keeps a s) : Keeps a (setTt f s) :=
  setTt_keeps f hc (fun g => by rw [h1, h2]; exact g) h

@[simp] theorem setQueue_keeps {a s : State} (q : List Move) (h : Keeps a s) : Keeps a (setQueue q s) :=
  setTt_keeps_of_same _ (fun _ => rfl) (fun _ => rfl) (fun _ => rfl) h

end Sys2Proof.Machine
end

