-- ==== Sys2Proof/Laws/KeepsTrack.lean ====
section
/-! SUPPORT. What the signal controller, the display unit, the interlocking's changes and the point drive's queue keep. -/

namespace Sys2Proof.Machine

/-! ### Signals (R21, R22) -/

@[simp] theorem recordAspect_keeps {a s : State} (sg : SignalId) (x : Aspect) (h : Keeps a s) :
    Keeps a (recordAspect sg x s) := by
  have h1 := signals_keeps sg (fun e => { e with aspect := x }) (fun _ => rfl) h
  unfold recordAspect
  dsimp only
  split
  · exact h1
  · exact setHead_keeps _ _ _ h1

@[simp] theorem cascade_keeps {a s : State} (n : Nat) (l : List SignalId) (h : Keeps a s) : Keeps a (cascade n l s) := by
  induction n generalizing l s with
  | zero => exact h
  | succ n ih =>
    cases l with
    | nil => exact h
    | cons sg rest =>
      unfold cascade
      dsimp only
      split
      · exact ih rest h
      · exact ih _ (recordAspect_keeps _ _ h)

@[simp] theorem deriveSignal_keeps {a s : State} (sg : SignalId) (h : Keeps a s) : Keeps a (deriveSignal sg s) :=
  cascade_keeps _ _ h

/-! ### Displays (R132 to R138) -/

@[simp] theorem renderLine_keeps {a s : State} (b : DepBoardId) (p : LineNo) (h : Keeps a s) :
    Keeps a (renderLine b p s) := by
  unfold renderLine
  dsimp only
  split
  · exact h
  · exact depBoards_keeps b _ (fun _ => rfl) h

@[simp] theorem renderFrom_keeps {a s : State} (b : DepBoardId) (k : Nat) (h : Keeps a s) : Keeps a (renderFrom b k s) := by
  exact forEach_keeps _ _ (fun p _ g => renderLine_keeps b p g) h

@[simp] theorem renderAnn_keeps {a s : State} (b : DepBoardId) (n : AnnId) (h : Keeps a s) : Keeps a (renderAnn b n s) := by
  unfold renderAnn
  split <;> simp (maxDischargeDepth := 9) [h]

@[simp] theorem announceEvent_keeps {a s : State} (b : DepBoardId) (h : Keeps a s) : Keeps a (announceEvent b s) := by
  simp [announceEvent, h]

@[simp] theorem announcements_keeps {a s : State} (t : Vector (Option Announcement) 32) (h : Keeps a s) :
    Keeps a { s with announcements := t } := h.frame rfl rfl rfl rfl rfl rfl rfl rfl

@[simp] theorem putAnn_keeps {a s : State} (n : AnnId) (v : Announcement) (h : Keeps a s) : Keeps a (putAnn n v s) := by
  exact announceEvent_keeps _ (renderAnn_keeps _ _ (announcements_keeps _ h))

@[simp] theorem testAnn_keeps {a s : State} (t : Option TrainId) (n : AnnId) (h : Keeps a s) : Keeps a (testAnn t n s) := by
  unfold testAnn
  split
  · exact h
  · split <;> simp (maxDischargeDepth := 9) [h]

@[simp] theorem reservationReport_keeps {a s : State} (sg : SignalId) (t : Option TrainId) (h : Keeps a s) :
    Keeps a (reservationReport sg t s) := by
  exact forEach_keeps _ _ (fun n _ g => testAnn_keeps _ n g) h

@[simp] theorem annTrainDeleted_keeps {a s : State} (t : TrainId) (h : Keeps a s) : Keeps a (annTrainDeleted t s) := by
  refine forEach_keeps _ _ (fun n s g => ?_) h
  split
  · exact g
  · split <;> simp [g]

@[simp] theorem annHeadcode_keeps {a s : State} (t : TrainId) (c : Headcode) (h : Keeps a s) : Keeps a (annHeadcode t c s) := by
  refine forEach_keeps _ _ (fun n s g => ?_) h
  split <;> simp [g]

@[simp] theorem annDestination_keeps {a s : State} (t : TrainId) (d : List Byte) (h : Keeps a s) :
    Keeps a (annDestination t d s) := by
  refine forEach_keeps _ _ (fun n s g => ?_) h
  split
  · exact g
  · split <;> simp [g]

@[simp] theorem retireAnn_keeps {a s : State} (n : AnnId) (h : Keeps a s) : Keeps a (retireAnn n s) := by
  unfold retireAnn
  split
  · exact h
  · dsimp only
    refine announceEvent_keeps _ (renderFrom_keeps _ _ ?_)
    exact h.frame (by simp [fixed, tmap_tupd]) rfl rfl rfl rfl rfl rfl rfl

@[simp] theorem setButtonState_keeps {a s : State} (b : ButtonId) (x : ButtonState) (h : Keeps a s) :
    Keeps a (setButtonState b x s) := by
  have h1 := buttons_keeps b (fun e => { e with state := x }) (fun _ => rfl) h
  unfold setButtonState
  dsimp only
  split
  · exact h1
  · exact setLamp_keeps _ _ _ h1

@[simp] theorem busyEnds_keeps {a s : State} (w : BusyWith) (h : Keeps a s) : Keeps a (busyEnds w s) :=
  forEach_keeps _ _ (fun b _ g => setButtonState_keeps b _ (buttons_keeps b _ (fun _ => rfl) g)) h

/-! ### The interlocking's changes (R57, R65 to R67) -/

@[simp] theorem handOnChange_keeps {a s : State} (e : SignalId) (v : Reservation) (x y : ResState) (h : Keeps a s) :
    Keeps a (handOnChange e v x y s) := by
  unfold handOnChange
  dsimp only
  refine setOwnerFlag_keeps _ _ (reservationReport_keeps _ _ ?_)
  split <;> simp (maxDischargeDepth := 9) [h]

@[simp] theorem changeState_keeps {a s : State} (r : ResId) (x : ResState) (h : Keeps a s) : Keeps a (changeState r x s) := by
  unfold changeState
  split
  · exact h
  · split <;> simp (maxDischargeDepth := 9) [h]

@[simp] theorem setFault_keeps {a s : State} (r : ResId) (n : FaultNote) (h : Keeps a s) : Keeps a (setFault r n s) := by
  unfold setFault
  split <;> simp (maxDischargeDepth := 9) [h]

@[simp] theorem testOpen_keeps {a s : State} (r : ResId) (h : Keeps a s) : Keeps a (testOpen r s) := by
  unfold testOpen
  repeat' split
  all_goals simp (maxDischargeDepth := 9) [h]

@[simp] theorem recheck_keeps {a s : State} (r : ResId) (h : Keeps a s) : Keeps a (recheck r s) := by
  unfold recheck
  dsimp only
  repeat' split
  all_goals simp (maxDischargeDepth := 9) [h]

@[simp] theorem pointChanged_keeps {a s : State} (l : PointLock) (h : Keeps a s) : Keeps a (pointChanged l s) := by
  unfold pointChanged
  split <;> simp (maxDischargeDepth := 9) [h]

@[simp] theorem turntableChanged_keeps {a s : State} (h : Keeps a s) : Keeps a (turntableChanged s) := by
  unfold turntableChanged
  split <;> simp (maxDischargeDepth := 9) [h]

@[simp] theorem setResTrain_keeps {a s : State} (r : ResId) (t : Option TrainId) (h : Keeps a s) :
    Keeps a (setResTrain r t s) := by
  unfold setResTrain
  repeat' split
  all_goals simp (maxDischargeDepth := 9) [h]

/-! ### The throw queue (R30 to R34) -/

@[simp] theorem pointEvent_keeps {a s : State} (p : PointId) (h : Keeps a s) : Keeps a (pointEvent p s) := by
  simp [pointEvent, h]

@[simp] theorem drivePoint_keeps {a s : State} (p : PointId) (d : PointDrive) (h : Keeps a s) : Keeps a (drivePoint p d s) := by
  unfold drivePoint
  split <;> simp (maxDischargeDepth := 9) [h]

@[simp] theorem startThrow_keeps {a s : State} (o : ThrowOrder) (rest : List ThrowOrder) (hq : s.throwQueue = o :: rest)
    (hm : mayStart s = true) (h : Keeps a s) : Keeps a (startThrow o rest s) := by
  unfold startThrow
  dsimp only
  apply pointChanged_keeps
  apply drivePoint_keeps
  refine ⟨?_, h.sections, h.districts, ?_, ?_, h.heads, h.position⟩
  · rw [← h.fixed]; simp [fixed, tmap_tupd]
  · intro hs m
    have := h.points hs m
    simp only [tget_tupd]
    split
    · next e =>
      unfold PointRec.Sound at this ⊢
      simp
    · exact this
  · intro hs
    obtain ⟨h1, h2, h3, h4⟩ := h.throws hs
    rw [hq] at h1 h2 h3
    refine ⟨by simp at h1 ⊢; omega, by simp at h2 ⊢; exact h2.2, ?_, ?_⟩
    · intro q hm
      simp only [tget_tupd]
      split
      · next e =>
        simp only [List.map_cons, List.nodup_cons, List.mem_map, not_exists] at h2
        exact absurd e.symm (fun e => h2.1 q ⟨hm, e⟩)
      · exact h3 q (by simp [hm])
    · have : throwsInMotion s < 2 := by
        simp [mayStart] at hm
        exact Nat.lt_succ_of_le hm.1
      exact (idsWhere_tput_length_le _ _ _ _).trans this

@[simp] theorem considerOrders_keeps {a s : State} (l : List ThrowOrder) (hl : s.throwQueue = l) (h : Keeps a s) :
    Keeps a (considerOrders l s) := by
  induction l generalizing s with
  | nil => exact h
  | cons o rest ih =>
    unfold considerOrders
    split
    · next hm =>
      split
      · refine ih ?_ (pointEvent_keeps _ (queue_keeps rest ?_ h))
        · simp [pointEvent]
        · rw [hl]; exact List.sublist_cons_self o rest
      · exact startThrow_keeps o rest hl hm h
    · exact h

@[simp] theorem considerStart_keeps {a s : State} (h : Keeps a s) : Keeps a (considerStart s) :=
  considerOrders_keeps _ rfl h

@[simp] theorem appendOrder_keeps {a s : State} (o : ThrowOrder) (h : Keeps a s) : Keeps a (appendOrder o s) := by
  unfold appendOrder
  split
  · exact h
  · next g =>
    apply considerStart_keeps
    simp only [appendRefused, Bool.or_eq_true, decide_eq_true_eq, beq_iff_eq, not_or, not_le, Option.not_isSome_iff_eq_none,
      queuedOrder, List.find?_eq_none] at g
    obtain ⟨⟨g1, g2⟩, g3⟩ := g
    refine ⟨h.fixed, h.sections, h.districts, h.points, ?_, h.heads, h.position⟩
    intro hs
    obtain ⟨h1, h2, h3, h4⟩ := h.throws hs
    refine ⟨by simp; omega, ?_, ?_, h4⟩
    · simp only [List.map_append, List.map_cons, List.map_nil]
      refine List.Nodup.append h2 (by simp) ?_
      simp only [List.disjoint_singleton, List.mem_map, not_exists, not_and]
      intro q hq e
      exact g2 q hq e
    · intro q hq
      simp only [List.mem_append, List.mem_singleton] at hq
      rcases hq with hq | hq
      · exact h3 q hq
      · rw [hq]; exact g3

@[simp] theorem removeOrders_keeps {a s : State} (r : ResId) (l : Option (List PointId)) (h : Keeps a s) :
    Keeps a (removeOrders r l s) := by
  unfold removeOrders
  dsimp only
  have := queue_keeps _ (List.filter_sublist (p := fun o => !orderNamed r l o)) h
  split
  · exact considerStart_keeps this
  · exact this

@[simp] theorem disown_keeps {a s : State} (r : ResId) (h : Keeps a s) : Keeps a (disown r s) := by
  unfold disown
  generalize hl : throwsInFlight s r = l
  have hm : ∀ p ∈ l, (tget s.points p).state = .moving := by
    intro p hp
    rw [← hl] at hp
    simp [throwsInFlight] at hp
    exact hp.1
  clear hl
  induction l generalizing s with
  | nil => exact h
  | cons p rest ih =>
    rw [forEach_cons]
    have hp := hm p (by simp)
    apply ih
    · refine points_keeps p _ (fun _ => rfl) ?_ (fun e => e) h
      intro hs
      unfold PointRec.Sound at hs ⊢
      rw [if_pos hp] at hs
      rw [if_pos (by exact hp)]
      exact hs
    · intro q hq
      simp only [tget_tupd]
      split
      · next e => rw [← e]; exact hp
      · exact hm q (by simp [hq])

end Sys2Proof.Machine
end

