-- ==== Sys2Proof/Laws/KeepsRoutes.lean ====
section
/-! SUPPORT. What the turntable controller's queue and the release of a route keep. -/

namespace Sys2Proof.Machine

/-! ### The turntable's queue (R110, R113 to R116, R124) -/

@[simp] theorem setTtOutputs_keeps {a s : State} (f : OutputImage → OutputImage) (h : Keeps a s) :
    Keeps a (setTtOutputs f s) := by
  unfold setTtOutputs
  split <;> simp [h]

@[simp] theorem setTtOutputs_tt (f : OutputImage → OutputImage) (s : State) : (setTtOutputs f s).tt = s.tt := by
  unfold setTtOutputs
  split <;> rfl

@[simp] theorem reportMove_keeps {a s : State} (m : Move) (h : Keeps a s) : Keeps a (reportMove m s) := by
  unfold reportMove
  split <;> simp [h]

@[simp] theorem takeMoveNo_keeps {a s : State} (h : Keeps a s) : Keeps a (takeMoveNo s).2 := by
  unfold takeMoveNo
  dsimp only
  exact setTt_keeps_of_same _ (fun _ => rfl) (fun _ => rfl) (fun _ => rfl) h

/-- A start condition of the head move: the turntable is IDLE (R114). -/
theorem mayMove_idle {s : State} {m : Move} (h : mayMove s m = true) : s.tt.state = .idle := by
  unfold mayMove at h
  split at h
  · simp at h
  · simp only [Bool.and_eq_true, beq_iff_eq] at h
    exact h.1.1.1.1.2

/-- A change of state among those that have a position keeps what the invariants say. -/
theorem setTt_keeps_of_positioned {a s : State} (f : Turntable → Turntable) (hc : ∀ t, (f t).cfg = t.cfg)
    (hp : ∀ t, (f t).position = t.position) (h0 : s.tt.state.positioned = true) (h1 : (f s.tt).state.positioned = true)
    (h : Keeps a s) : Keeps a (setTt f s) := by
  refine setTt_keeps f hc (fun g => ?_) h
  rw [hp, h1]
  exact g.trans h0

theorem endAtTarget_keeps {a s : State} (m : Move) (hp : s.tt.state.positioned = true) (h : Keeps a s) :
    Keeps a (endAtTarget m s) :=
  turntableChanged_keeps
    (reportMove_keeps m (setTt_keeps_of_positioned _ (fun _ => rfl) (fun _ => rfl) hp rfl h))

theorem enterUnbolting_keeps {a s : State} (hp : s.tt.state.positioned = true) (h : Keeps a s) :
    Keeps a (enterUnbolting s) :=
  turntableChanged_keeps
    (setTtOutputs_keeps _ (setTt_keeps_of_positioned _ (fun _ => rfl) (fun _ => rfl) hp rfl h))

@[simp] theorem considerMoves_keeps {a s : State} (n : Nat) (h : Keeps a s) : Keeps a (considerMoves n s) := by
  induction n generalizing s with
  | zero => exact h
  | succ n ih =>
    unfold considerMoves
    split
    · exact h
    · next m rest hq =>
      split
      · next hm =>
        have hi := mayMove_idle hm
        split
        · exact ih (reportMove_keeps _ (setQueue_keeps _ h))
        · next g hg =>
          dsimp only
          have hs1 : Keeps a (setTt (fun t => { t with current := some { m with waitTimer := none, target := some g } })
              (setQueue rest s)) :=
            setTt_keeps_of_same _ (fun _ => rfl) (fun _ => rfl) (fun _ => rfl) (setQueue_keeps _ h)
          split
          · exact ih (endAtTarget_keeps _ (by simp [hi, TtState.positioned]) hs1)
          · exact enterUnbolting_keeps (by simp [hi, TtState.positioned]) hs1
      · exact h

@[simp] theorem considerMove_keeps {a s : State} (h : Keeps a s) : Keeps a (considerMove s) := considerMoves_keeps _ h

@[simp] theorem takeDeck_keeps {a s : State} (r : ResId) (h : Keeps a s) : Keeps a (takeDeck r s) :=
  turntableChanged_keeps (setTt_keeps_of_same _ (fun _ => rfl) (fun _ => rfl) (fun _ => rfl) h)

@[simp] theorem releaseDeck_keeps {a s : State} (r : ResId) (h : Keeps a s) : Keeps a (releaseDeck r s) := by
  unfold releaseDeck
  dsimp only
  split
  · exact considerMove_keeps (setTt_keeps_of_same _ (fun _ => rfl) (fun _ => rfl) (fun _ => rfl) h)
  · exact setTt_keeps_of_same _ (fun _ => rfl) (fun _ => rfl) (fun _ => rfl) h

@[simp] theorem placeMove_keeps {a s : State} (r : ResId) (g : RoadId) (h : Keeps a s) : Keeps a (placeMove r g s) :=
  considerMove_keeps (setQueue_keeps _ (takeMoveNo_keeps h))

@[simp] theorem removeMove_keeps {a s : State} (r : ResId) (h : Keeps a s) : Keeps a (removeMove r s) := by
  unfold removeMove
  split <;> simp (maxDischargeDepth := 9) [h]

@[simp] theorem queueMove_keeps {a s : State} (m : Move) (h : Keeps a s) : Keeps a (queueMove m s) :=
  considerMove_keeps (setQueue_keeps _ (takeMoveNo_keeps h))

/-! ### Retirement and release (R75 to R87) -/

@[simp] theorem leaveForRetirement_keeps {a s : State} (r : ResId) (v : Reservation) (d : RouteDef) (h : Keeps a s) :
    Keeps a (leaveForRetirement r v d s) := by
  unfold leaveForRetirement
  dsimp only
  split <;> simp [h]

@[simp] theorem releaseAllSections_keeps {a s : State} (r : ResId) (h : Keeps a s) : Keeps a (releaseAllSections r s) :=
  forEach_keeps _ _ (fun n _ g => releaseSection_keeps n r g) h

@[simp] theorem releaseRestingPoints_keeps {a s : State} (r : ResId) (h : Keeps a s) :
    Keeps a (releaseRestingPoints r s) := forEach_keeps _ _ (fun p _ g => releasePoint_keeps p r g) h

@[simp] theorem freeEntry_keeps {a s : State} (r : ResId) (sg : SignalId) (h : Keeps a s) : Keeps a (freeEntry r sg s) :=
  setRes_keeps _ _ (signals_keeps sg _ (fun _ => rfl) h)

@[simp] theorem retire_keeps {a s : State} (r : ResId) (h : Keeps a s) : Keeps a (retire r s) := by
  unfold retire
  split
  · exact h
  · dsimp only
    split <;> simp (maxDischargeDepth := 20) [h]

@[simp] theorem releaseOverlap_keeps {a s : State} (r : ResId) (h : Keeps a s) : Keeps a (releaseOverlap r s) := by
  unfold releaseOverlap
  split
  · exact h
  · next v d _ =>
    split
    · exact h
    · dsimp only
      have h1 := forEach_keeps (d.overlap.map (·.sec)) _ (fun n _ g => releaseSection_keeps n r g) h
      have h2 := forEach_keeps (elemPoints d.overlap) _ (fun p _ g => releasePoint_keeps p r g) h1
      split
      · exact recheck_keeps r (updRes_keeps r _ h2)
      · exact updRes_keeps r _ h2

@[simp] theorem retireIfDone_keeps {a s : State} (r : ResId) (h : Keeps a s) : Keeps a (retireIfDone r s) := by
  unfold retireIfDone
  split
  · exact h
  · exact ite_keeps (retire_keeps r h) h

@[simp] theorem releaseElement_keeps {a s : State} (r : ResId) (d : RouteDef) (k : Nat) (e : RouteElem) (h : Keeps a s) :
    Keeps a (releaseElement r d k e s) := by
  unfold releaseElement
  have h1 := releaseSection_keeps e.sec r h
  have h2 : Keeps a (match e.point with
      | none => releaseSection e.sec r s
      | some q => releasePoint q.point r (releaseSection e.sec r s)) := by
    split
    · exact h1
    · exact releasePoint_keeps _ r h1
  have h4 := updRes_keeps r (fun v => { v with releaseCursor := k + 1 })
    (ite_keeps (c := e.deck.isSome = true) (releaseDeck_keeps r h2) h2)
  exact ite_keeps (releaseOverlap_keeps r h4) h4

@[simp] theorem releaseLoop_keeps {a s : State} (n : Nat) (r : ResId) (h : Keeps a s) : Keeps a (releaseLoop n r s) := by
  induction n generalizing s with
  | zero => exact h
  | succ n ih =>
    unfold releaseLoop
    repeat' split
    all_goals first | exact h | exact ih (releaseElement_keeps _ _ _ _ h)

@[simp] theorem sectionalRelease_keeps {a s : State} (r : ResId) (h : Keeps a s) : Keeps a (sectionalRelease r s) :=
  retireIfDone_keeps r (releaseLoop_keeps _ r h)

@[simp] theorem dropLocks_keeps {a s : State} (r : ResId) (h : Keeps a s) : Keeps a (dropLocks r s) := by
  unfold dropLocks
  split
  · exact h
  · exact ite_keeps (releaseRestingPoints_keeps r (updRes_keeps r _ (releaseAllSections_keeps r h)))
      (releaseDeck_keeps r (releaseRestingPoints_keeps r (updRes_keeps r _ (releaseAllSections_keeps r h))))

@[simp] theorem holdApproach_keeps {a s : State} (r : ResId) (d : RouteDef) (h : Keeps a s) :
    Keeps a (holdApproach r d s) := changeState_keeps r _ (updRes_keeps r _ h)

@[simp] theorem withdrawWork_keeps {a s : State} (r : ResId) (h : Keeps a s) : Keeps a (withdrawWork r s) := by
  have h1 := removeMove_keeps r (removeOrders_keeps r none h)
  exact ite_keeps (releaseDeck_keeps r h1) h1

@[simp] theorem cancel_keeps {a s : State} (r : ResId) (h : Keeps a s) : Keeps a (cancel r s) := by
  unfold cancel
  dsimp only
  repeat' split
  all_goals simp (maxDischargeDepth := 9) [h]

@[simp] theorem retireIfIdle_keeps {a s : State} (r : ResId) (h : Keeps a s) : Keeps a (retireIfIdle r s) :=
  ite_keeps h (retire_keeps r h)

@[simp] theorem ownedThrowEnded_keeps {a s : State} (r : ResId) (p : PointId) (o : ThrowOutcome) (h : Keeps a s) :
    Keeps a (ownedThrowEnded r p o s) := by
  unfold ownedThrowEnded
  dsimp only
  repeat' split
  all_goals simp (maxDischargeDepth := 9) [h]

@[simp] theorem ownedMoveEnded_keeps {a s : State} (r : ResId) (o : MoveOutcome) (h : Keeps a s) :
    Keeps a (ownedMoveEnded r o s) := by
  unfold ownedMoveEnded
  repeat' split
  all_goals simp (maxDischargeDepth := 9) [h]

@[simp] theorem moveEnded_keeps {a s : State} (m : Move) (o : MoveOutcome) (h : Keeps a s) :
    Keeps a (moveEnded m o s) := by
  unfold moveEnded
  split <;> simp [h]

end Sys2Proof.Machine
end

