-- ==== Sys2Proof/Laws/Told.lean ====
section
/-! SUPPORT. What the interlocking's changes of a reservation reach (R57): the reservation and signal tables, the output
images, the announcements with their boards, and the event flags. Nothing else of the state changes. -/

namespace Sys2Proof.Machine

/-- From `a` to `s` only those tables may differ. -/
def Told (a s : State) : Prop :=
  s = { a with signals := s.signals, reservations := s.reservations, announcements := s.announcements
               depBoards := s.depBoards, boards := s.boards, stations := s.stations }

theorem Told.refl (a : State) : Told a a := rfl

theorem Told.trans {a b c : State} (h : Told a b) (g : Told b c) : Told a c := by
  unfold Told at h g ⊢
  rw [g]
  rw [h]

theorem forEach_told {ι : Type} {a s : State} (l : List ι) (f : ι → State → State)
    (hf : ∀ i s, Told a s → Told a (f i s)) (h : Told a s) : Told a (forEach l f s) := forEach_induct hf l h

theorem ite_told {a s t : State} {c : Prop} [Decidable c] (h : Told a s) (g : Told a t) :
    Told a (if c then s else t) := by
  split
  · exact h
  · exact g

theorem Told.tt {a s : State} (h : Told a s) : s.tt = a.tt := by rw [h]
theorem Told.points {a s : State} (h : Told a s) : s.points = a.points := by rw [h]
theorem Told.throwQueue {a s : State} (h : Told a s) : s.throwQueue = a.throwQueue := by rw [h]
theorem Told.sections {a s : State} (h : Told a s) : s.sections = a.sections := by rw [h]
theorem Told.districts {a s : State} (h : Told a s) : s.districts = a.districts := by rw [h]
theorem Told.trains {a s : State} (h : Told a s) : s.trains = a.trains := by rw [h]
theorem Told.slots {a s : State} (h : Told a s) : s.slots = a.slots := by rw [h]
theorem Told.buttons {a s : State} (h : Told a s) : s.buttons = a.buttons := by rw [h]
theorem Told.timing {a s : State} (h : Told a s) : s.timing = a.timing := by rw [h]

theorem setFlag_told {a s : State} (f : EventFlag) (st : StationId) (h : Told a s) : Told a (setFlag f st s) := by
  rw [setFlag_eq]
  exact h.trans rfl

theorem setFlags_told {a s : State} (f : EventFlag) (l : List StationId) (h : Told a s) : Told a (setFlags f l s) := by
  rw [setFlags_eq]
  exact h.trans rfl

theorem setOwnerFlag_told {a s : State} (f : EventFlag) (o : Owner) (h : Told a s) : Told a (setOwnerFlag f o s) := by
  rw [setOwnerFlag_eq]
  exact h.trans rfl

theorem setRes_told {a s : State} (r : ResId) (x : Option Reservation) (h : Told a s) : Told a (setRes r x s) :=
  h.trans rfl

theorem updRes_told {a s : State} (r : ResId) (f : Reservation → Reservation) (h : Told a s) : Told a (updRes r f s) :=
  h.trans rfl

theorem setImage_told {a s : State} (b : BoardIdx) (f : OutputImage → OutputImage) (h : Told a s) :
    Told a (setImage b f s) := h.trans rfl

theorem recordAspect_told {a s : State} (sg : SignalId) (x : Aspect) (h : Told a s) : Told a (recordAspect sg x s) := by
  refine h.trans ?_
  unfold recordAspect
  dsimp only
  split <;> rfl

theorem cascade_told {a s : State} (n : Nat) (l : List SignalId) (h : Told a s) : Told a (cascade n l s) := by
  induction n generalizing l s with
  | zero => exact h
  | succ n ih =>
    cases l with
    | nil => exact h
    | cons sg rest =>
      unfold cascade
      exact ite_told (ih rest h) (ih _ (recordAspect_told _ _ h))

theorem deriveSignal_told {a s : State} (sg : SignalId) (h : Told a s) : Told a (deriveSignal sg s) := cascade_told _ _ h

theorem renderLine_told {a s : State} (b : DepBoardId) (p : LineNo) (h : Told a s) : Told a (renderLine b p s) :=
  ite_told h (h.trans rfl)

theorem renderFrom_told {a s : State} (b : DepBoardId) (k : Nat) (h : Told a s) : Told a (renderFrom b k s) :=
  forEach_told _ _ (fun p _ g => renderLine_told b p g) h

theorem renderAnn_told {a s : State} (b : DepBoardId) (n : AnnId) (h : Told a s) : Told a (renderAnn b n s) := by
  unfold renderAnn
  split
  · exact renderLine_told _ _ h
  · exact h

theorem announceEvent_told {a s : State} (b : DepBoardId) (h : Told a s) : Told a (announceEvent b s) :=
  setFlags_told _ _ h

theorem putAnn_told {a s : State} (n : AnnId) (v : Announcement) (h : Told a s) : Told a (putAnn n v s) := by
  refine announceEvent_told _ (renderAnn_told _ _ (h.trans ?_))
  rfl

theorem testAnn_told {a s : State} (t : Option TrainId) (n : AnnId) (h : Told a s) : Told a (testAnn t n s) := by
  unfold testAnn
  split
  · exact h
  · exact ite_told h (putAnn_told _ _ h)

theorem reservationReport_told {a s : State} (sg : SignalId) (t : Option TrainId) (h : Told a s) :
    Told a (reservationReport sg t s) := forEach_told _ _ (fun n _ g => testAnn_told t n g) h

theorem handOnChange_told {a s : State} (e : SignalId) (v : Reservation) (x y : ResState) (h : Told a s) :
    Told a (handOnChange e v x y s) :=
  setOwnerFlag_told _ _ (reservationReport_told _ _ (ite_told (deriveSignal_told e h) h))

/-- A change of a reservation's state (R57). -/
theorem changeState_told {a s : State} (r : ResId) (x : ResState) (h : Told a s) : Told a (changeState r x s) := by
  unfold changeState
  split
  · exact h
  · exact ite_told h (handOnChange_told _ _ _ _ (setRes_told _ _ h))

/-- A fault note (R68). -/
theorem setFault_told {a s : State} (r : ResId) (n : FaultNote) (h : Told a s) : Told a (setFault r n s) := by
  unfold setFault
  split
  · exact h
  · exact setFlag_told _ _ (setOwnerFlag_told _ _ (updRes_told _ _ h))

/-- The test of the open conditions (R66). -/
theorem testOpen_told {a s : State} (r : ResId) (h : Told a s) : Told a (testOpen r s) := by
  unfold testOpen
  split
  · exact h
  · split
    · exact ite_told (changeState_told _ _ h) h
    · exact ite_told h (changeState_told _ _ h)
    · exact h

/-- The setting cursor and loss of requirement (R65, R67). -/
theorem recheck_told {a s : State} (r : ResId) (h : Told a s) : Told a (recheck r s) := by
  unfold recheck
  dsimp only
  split
  · exact h
  · split
    · exact ite_told (testOpen_told _ (changeState_told _ _ (updRes_told _ _ h))) (updRes_told _ _ h)
    · exact ite_told (setFault_told _ _ (changeState_told _ _ (updRes_told _ _ h))) h
    · exact ite_told (setFault_told _ _ (changeState_told _ _ (updRes_told _ _ h))) h
    · exact h

theorem pointChanged_told {a s : State} (l : PointLock) (h : Told a s) : Told a (pointChanged l s) := by
  unfold pointChanged
  split
  · exact recheck_told _ h
  · exact h

theorem turntableChanged_told {a s : State} (h : Told a s) : Told a (turntableChanged s) := by
  unfold turntableChanged
  split
  · exact h
  · exact testOpen_told _ (recheck_told _ h)

theorem setResTrain_told {a s : State} (r : ResId) (t : Option TrainId) (h : Told a s) : Told a (setResTrain r t s) := by
  unfold setResTrain
  split
  · exact h
  · exact ite_told h (reservationReport_told _ _ (updRes_told _ _ h))

theorem setTtOutputs_told {a s : State} (f : OutputImage → OutputImage) (h : Told a s) : Told a (setTtOutputs f s) := by
  unfold setTtOutputs
  split
  · exact h
  · exact setImage_told _ _ h

theorem pointEvent_told {a s : State} (p : PointId) (h : Told a s) : Told a (pointEvent p s) := setFlags_told _ _ h

theorem drivePoint_told {a s : State} (p : PointId) (d : PointDrive) (h : Told a s) : Told a (drivePoint p d s) := by
  unfold drivePoint
  split
  · exact h
  · exact h.trans rfl

end Sys2Proof.Machine
end

