-- ==== Sys2Proof/Laws/KeepsLayout.lean ====
section
/-! SUPPORT. What the running of the turntable, the train describer, section and district changes, and the ends of throws
keep. -/

namespace Sys2Proof.Machine

/-! ### Running the turntable (R109, R116 to R123, R130) -/

@[simp] theorem deckFault_keeps {a s : State} (w : Option ResId) (h : Keeps a s) : Keeps a (deckFault w s) := by
  unfold deckFault
  repeat' split
  all_goals simp [h]

/-- The turntable loses its position. -/
theorem setTt_keeps_of_lost {a s : State} (f : Turntable → Turntable) (hc : ∀ t, (f t).cfg = t.cfg)
    (h1 : (f s.tt).position = none) (h2 : (f s.tt).state.positioned = false) (h : Keeps a s) : Keeps a (setTt f s) :=
  setTt_keeps f hc (fun _ => by rw [h1, h2]; rfl) h

/-- The turntable gains a position. -/
theorem setTt_keeps_of_found {a s : State} (f : Turntable → Turntable) (hc : ∀ t, (f t).cfg = t.cfg)
    (h1 : (f s.tt).position.isSome = true) (h2 : (f s.tt).state.positioned = true) (h : Keeps a s) : Keeps a (setTt f s) :=
  setTt_keeps f hc (fun _ => by rw [h1, h2]) h

@[simp] theorem enterFailed_keeps {a s : State} (h : Keeps a s) : Keeps a (enterFailed s) := by
  unfold enterFailed
  dsimp only
  split
  · refine forEach_keeps _ _ (fun m _ g => moveEnded_keeps m _ g) ?_
    have h2 := setFlag_keeps .turntable supervisor (deckFault_keeps (awaitsDeck s) (turntableChanged_keeps
      (setTt_keeps_of_lost (fun t => { t with
        state := .failed, phase := none, stageTimer := none, lastPosition := t.remembered, position := none,
        current := none, queue := [], deckLock := t.deckLock.atMoveEnd }) (fun _ => rfl) rfl rfl
        (setTtOutputs_keeps (fun i => { i with ttDrive := .stop }) h))))
    split
    · exact h2
    · exact moveEnded_keeps _ _ h2
  · exact h

theorem finishMove_keeps {a s : State} (hp : s.tt.state.positioned = true) (h : Keeps a s) : Keeps a (finishMove s) := by
  unfold finishMove
  split
  · exact h
  · dsimp only
    have h1 := endAtTarget_keeps (by assumption) hp h
    split <;> simp (maxDischargeDepth := 9) [endAtTarget_keeps, hp, h]

theorem enterTurning_keeps {a s : State} (hp : s.tt.state.positioned = true) (h : Keeps a s) :
    Keeps a (enterTurning s) :=
  turntableChanged_keeps
    (setTtOutputs_keeps _ (setTt_keeps_of_positioned _ (fun _ => rfl) (fun _ => rfl) hp rfl h))

theorem enterBolting_keeps {a s : State} (hp : s.tt.state.positioned = true) (h : Keeps a s) :
    Keeps a (enterBolting s) :=
  turntableChanged_keeps
    (setTtOutputs_keeps _ (setTt_keeps_of_positioned _ (fun _ => rfl) (fun _ => rfl) hp rfl h))

theorem turningStep_keeps {a s : State} (d : Nat) (datum : Bool) (hp : s.tt.state.positioned = true) (h : Keeps a s) :
    Keeps a (turningStep d datum s) := by
  unfold turningStep
  dsimp only
  split
  · next p g _ _ =>
    have h1 : Keeps a (setTt (fun t => { t with position := some (stepBy p (driveOutput s != .anticlockwise) d), stageTimer := some s.timing.stepTime }) s) :=
      setTt_keeps_of_found _ (fun _ => rfl) rfl hp h
    have h2 := turntableChanged_keeps h1
    refine ite_keeps (enterFailed_keeps h2) (ite_keeps (enterFailed_keeps h2) (ite_keeps (enterBolting_keeps ?_ h2) h2))
    rw [(turntableChanged_told (Told.refl _)).tt]
    exact hp
  · exact h

@[simp] theorem homingBolt_keeps {a s : State} (h : Keeps a s) : Keeps a (homingBolt s) :=
  setTtOutputs_keeps _ (setTt_keeps_of_same _ (fun _ => rfl) (fun _ => rfl) (fun _ => rfl) h)

@[simp] theorem homingSeek_keeps {a s : State} (h : Keeps a s) : Keeps a (homingSeek s) :=
  setTtOutputs_keeps _ (setTt_keeps_of_same _ (fun _ => rfl) (fun _ => rfl) (fun _ => rfl) h)

@[simp] theorem homingEnds_keeps {a s : State} (h : Keeps a s) : Keeps a (homingEnds s) :=
  considerMove_keeps (turntableChanged_keeps (setFlag_keeps _ _
    (setTt_keeps_of_found _ (fun _ => rfl) rfl rfl h)))

@[simp] theorem homingReport_keeps {a s : State} (i : TurntableInputs) (d : Nat) (h : Keeps a s) :
    Keeps a (homingReport i d s) := by
  unfold homingReport
  dsimp only
  split
  · exact ite_keeps (enterFailed_keeps h) (ite_keeps (ite_keeps (homingBolt_keeps h) (homingSeek_keeps h)) h)
  · have h1 := ite_keeps (c := 0 < d)
      (setTt_keeps_of_same (fun t => { t with stepsCounted := min 24 (t.stepsCounted + d), stageTimer := some s.timing.stepTime })
        (fun _ => rfl) (fun _ => rfl) (fun _ => rfl) h) h
    exact ite_keeps (homingBolt_keeps h1) (ite_keeps (enterFailed_keeps h1) h1)
  · exact ite_keeps (enterFailed_keeps h) (ite_keeps (homingEnds_keeps h) h)
  · exact h

@[simp] theorem turntableTake_keeps {a s : State} (i : TurntableInputs) (d : Nat) (h : Keeps a s) :
    Keeps a (turntableTake i d s) := by
  have hf := enterFailed_keeps h
  unfold turntableTake
  refine ite_keeps hf ?_
  split
  · exact h
  · exact h
  · exact ite_keeps hf h
  · next e => exact ite_keeps hf (ite_keeps (enterTurning_keeps (by rw [e]; rfl) h) h)
  · next e => exact ite_keeps (turningStep_keeps _ _ (by rw [e]; rfl) h) h
  · next e => exact ite_keeps hf (ite_keeps (finishMove_keeps (by rw [e]; rfl) h) h)
  · exact homingReport_keeps _ _ h

@[simp] theorem turntableReport_keeps {a s : State} (b : BoardIdx) (i : TurntableInputs) (h : Keeps a s) :
    Keeps a (turntableReport b i s) :=
  ite_keeps (turntableTake_keeps _ _ (setTt_keeps_of_same _ (fun _ => rfl) (fun _ => rfl) (fun _ => rfl) h)) h

@[simp] theorem turntableSection_keeps {a s : State} (n : SectionId) (x : Occupancy) (h : Keeps a s) :
    Keeps a (turntableSection n x s) := by
  unfold turntableSection
  split
  · exact h
  · exact ite_keeps (considerMove_keeps (ite_keeps (enterFailed_keeps h) h)) (ite_keeps (enterFailed_keeps h) h)

@[simp] theorem turntableBoardLeaves_keeps {a s : State} (b : BoardIdx) (h : Keeps a s) :
    Keeps a (turntableBoardLeaves b s) := ite_keeps (enterFailed_keeps h) h

@[simp] theorem turntableBoardReturns_keeps {a s : State} (b : BoardIdx) (h : Keeps a s) :
    Keeps a (turntableBoardReturns b s) :=
  ite_keeps (setTt_keeps_of_same _ (fun _ => rfl) (fun _ => rfl) (fun _ => rfl) h) h

@[simp] theorem resetFaults_keeps {a s : State} (q : List Move) (h : Keeps a s) : Keeps a (resetFaults q s) := by
  refine forEach_keeps _ _ (fun r s g => ?_) h
  split
  · exact g
  · exact ite_keeps (setFault_keeps _ _ g) g

@[simp] theorem resetTurntable_keeps {a s : State} (h : Keeps a s) : Keeps a (resetTurntable s) := by
  unfold resetTurntable
  dsimp only
  refine forEach_keeps _ _ (fun m _ g => moveEnded_keeps m _ g) ?_
  have h3 : Keeps a (setFlag .turntable supervisor (resetFaults s.tt.queue (turntableChanged
      (setTt (fun t => { t with
        state := .unknown, phase := none, stageTimer := none, stepsCounted := 0
        interrupted := t.interrupted || (s.tt.state == .homing || s.tt.state == .unbolting || s.tt.state == .turning || s.tt.state == .bolting)
        current := none, queue := [], deckLock := t.deckLock.atMoveEnd, lastPosition := t.remembered, position := none })
        (setTtOutputs (fun i => { i with ttDrive := .stop }) s))))) :=
    setFlag_keeps _ _ (resetFaults_keeps _ (turntableChanged_keeps
      (setTt_keeps_of_lost _ (fun _ => rfl) rfl rfl (setTtOutputs_keeps _ h))))
  split
  · exact h3
  · exact moveEnded_keeps _ _ h3

/-! ### The train describer (R93 to R99) -/

@[simp] theorem deckHeadChanged_keeps {a s : State} (n : SectionId) (h : Keeps a s) : Keeps a (deckHeadChanged n s) :=
  ite_keeps (considerMove_keeps h) h

theorem stepTrain_keeps {a s : State} (t : TrainId) (p n : SectionId) (hn : headIn s n = none) (h : Keeps a s) :
    Keeps a (stepTrain t p n s) := by
  unfold stepTrain
  dsimp only
  refine deckHeadChanged_keeps _ (deckHeadChanged_keeps _ ?_)
  have h1 := updTrain_keeps t
    (fun v => { v with head := some n, lost := false, facing := if (deckSection s == some n) = true then facingFrom s p else none })
    (fun v m _ e => Or.inr (by simp at e; rw [← e]; exact hn)) h
  exact ite_keeps (setFlag_keeps _ _ h1) h1

@[simp] theorem trainEvent_keeps {a s : State} (l : Option SectionLock) (h : Keeps a s) : Keeps a (trainEvent l s) := by
  unfold trainEvent
  dsimp only
  split <;> simp [h]

@[simp] theorem findTrainIn_keeps {a s : State} (n : SectionId) (h : Keeps a s) : Keeps a (findTrainIn n s).1 := by
  unfold findTrainIn
  split <;> simp [h]

@[simp] theorem arrive_keeps {a s : State} (n : SectionId) (l : Option SectionLock) (h : Keeps a s) :
    Keeps a (arrive n l s).1 := by
  unfold arrive
  repeat' split
  · simp [h]
  · simp [h]
  · simp [h]
  · simp [h]
  · next e => exact stepTrain_keeps _ _ _ (by simpa using e) h

@[simp] theorem markPassed_keeps {a s : State} (x : Arrival) (h : Keeps a s) : Keeps a (markPassed x s) := by
  unfold markPassed
  split <;> simp [h]

@[simp] theorem headSectionClears_keeps {a s : State} (n : SectionId) (l : Option SectionLock) (h : Keeps a s) :
    Keeps a (headSectionClears n l s) := by
  unfold headSectionClears
  split
  · exact h
  · refine ite_keeps (deckHeadChanged_keeps _ (trainEvent_keeps _ (updTrain_keeps _ _ ?_ h))) (ite_keeps h ?_)
    · intro v m _ e
      simp at e
    · simp [h]

/-! ### Section changes (R3 to R7, R66, R73 to R77) -/

@[simp] theorem releaseAt_keeps {a s : State} (n : SectionId) (h : Keeps a s) : Keeps a (releaseAt n s) :=
  forEach_keeps _ _ (fun r _ g => sectionalRelease_keeps r g) h

@[simp] theorem openTests_keeps {a s : State} (n : SectionId) (h : Keeps a s) : Keeps a (openTests n s) :=
  forEach_keeps _ _ (fun r _ g => testOpen_keeps r g) h

@[simp] theorem sectionChanged_keeps {a s : State} (n : SectionId) (x : Occupancy) (l : Option SectionLock)
    (h : Keeps a s) : Keeps a (sectionChanged n x l s) :=
  turntableSection_keeps _ _ (openTests_keeps _ (releaseAt_keeps _ (ite_keeps (headSectionClears_keeps _ _ h) h)))

@[simp] theorem holdSection_keeps {a s : State} (n : SectionId) (h : Keeps a s) : Keeps a (holdSection n s) :=
  ite_keeps (putOcc_keeps _ _ h) (sectionChanged_keeps _ _ _ (putOcc_keeps _ _ h))

@[simp] theorem clearSection_keeps {a s : State} (n : SectionId) (h : Keeps a s) : Keeps a (clearSection n s) :=
  ite_keeps (putOcc_keeps _ _ h) (sectionChanged_keeps _ _ _ (putOcc_keeps _ _ h))

/-! ### Districts (R11 to R18) -/

@[simp] theorem boosterEnable_keeps {a s : State} (d : DistrictId) (on : Bool) (h : Keeps a s) :
    Keeps a (boosterEnable d on s) := by
  unfold boosterEnable
  split <;> simp [h]

@[simp] theorem districtChanged_keeps {a s : State} (d : DistrictId) (x : DistrictState) (h : Keeps a s) :
    Keeps a (districtChanged d x s) := by
  unfold districtChanged
  dsimp only
  refine forEach_keeps _ _ (fun r _ g => testOpen_keeps r g) ?_
  exact ite_keeps (forEach_keeps _ _ (fun n _ g => holdSection_keeps n g) (setFlagAll_keeps _ h)) (setFlagAll_keeps _ h)

theorem boosterEnable_told {a s : State} (d : DistrictId) (on : Bool) (h : Told a s) : Told a (boosterEnable d on s) := by
  unfold boosterEnable
  split
  · exact h
  · exact h.trans rfl

@[simp] theorem faultReport_keeps {a s : State} (d : DistrictId) (x : Bool) (h : Keeps a s) :
    Keeps a (faultReport d x s) := by
  unfold faultReport
  split
  · next e =>
    refine setDistrict_keeps d _ (fun _ => rfl) (fun g => ?_) h
    refine ⟨g.1, g.2.1, fun hb => ?_, g.2.2.2⟩
    have hb' : boosterOn (tget s.districts d) = false := hb
    rw [e] at hb'
    exact absurd hb' (by simp)
  · exact h

@[simp] theorem cutDistrict_keeps {a s : State} (d : DistrictId) (sg : SignalId) (h : Keeps a s) :
    Keeps a (cutDistrict d sg s) := by
  unfold cutDistrict
  dsimp only
  split
  · exact h
  · exact h
  · refine districtChanged_keeps _ _ (boosterEnable_keeps _ _ (setDistrict_keeps d _ (fun _ => rfl) (fun _ => ?_) h))
    simp [DistrictRec.Sound, boosterOn, DistrictState.allows]

@[simp] theorem energise_keeps {a s : State} (d : DistrictId) (h : Keeps a s) : Keeps a (energise d s) := by
  unfold energise
  split
  · exact h
  · have hr : ∀ x : DistrictState, x ≠ .cut → x.allows 0 →
        Keeps a (setDistrict d (DistrictRec.restarted x) s) := fun x hx h0 =>
      setDistrict_keeps d _ (fun _ => rfl) (fun _ => by simp [DistrictRec.Sound, DistrictRec.restarted, hx, h0]) h
    exact ite_keeps (boosterEnable_keeps _ _ (hr _ (by decide) rfl)) (hr _ (by decide) (Nat.zero_lt_succ 2))

@[simp] theorem faultIn_keeps {a s : State} (d : DistrictId) (h : Keeps a s) : Keeps a (faultIn d s) := by
  unfold faultIn
  dsimp only
  split
  · next e =>
    refine districtChanged_keeps _ _ (boosterEnable_keeps _ _ (setDistrict_keeps d _ (fun _ => rfl) (fun g => ?_) h))
    unfold DistrictRec.Sound at g ⊢
    rw [e] at g
    have h0 : (tget s.districts d).retryCount = 0 := g.2.2.2
    exact ⟨fun c => absurd rfl c, by simpa using g.2.1, fun _ => rfl, by simp [DistrictState.allows, h0]⟩
  · next e =>
    split
    · split
      · next h3 =>
        refine districtChanged_keeps _ _ (boosterEnable_keeps _ _ (setDistrict_keeps d _ (fun _ => rfl) (fun g => ?_) h))
        have hc := g.2.1
        rw [e] at hc
        exact ⟨fun _ => ⟨rfl, rfl⟩, by simpa using hc, fun _ => rfl, h3⟩
      · next h3 =>
        refine boosterEnable_keeps _ _ (setDistrict_keeps d _ (fun _ => rfl) (fun g => ?_) h)
        have h2 := g.2.2.2
        rw [e] at h2
        refine ⟨fun c => absurd e c, g.2.1, fun _ => rfl, ?_⟩
        show DistrictState.allows ((tget s.districts d).retryCount + 1) (tget s.districts d).state
        rw [e]
        exact Nat.lt_of_le_of_ne h2 h3
    · exact setDistrict_keeps d _ (fun _ => rfl) (fun g => ⟨g.1, g.2.1, fun _ => rfl, g.2.2.2⟩) h
  · exact setDistrict_keeps d _ (fun _ => rfl) (fun g => ⟨g.1, g.2.1, fun _ => rfl, g.2.2.2⟩) h

@[simp] theorem districtBoardLeaves_keeps {a s : State} (d : DistrictId) (h : Keeps a s) :
    Keeps a (districtBoardLeaves d s) := by
  have h1 := boosterEnable_keeps d false h
  have hd : (boosterEnable d false s).districts = s.districts := (boosterEnable_told d false (Told.refl _)).districts
  unfold districtBoardLeaves
  dsimp only
  split
  · next e =>
    refine districtChanged_keeps _ _ (setDistrict_keeps d _ (fun _ => rfl) (fun g => ?_) h1)
    rw [hd] at g ⊢
    unfold DistrictRec.Sound at g ⊢
    rw [e] at g
    exact ⟨fun c => absurd rfl c, by simpa using g.2.1, fun _ => rfl, by simp [DistrictState.allows]⟩
  · next e =>
    refine setDistrict_keeps d _ (fun _ => rfl) (fun g => ?_) h1
    rw [hd] at g ⊢
    exact ⟨fun _ => ⟨rfl, rfl⟩, g.2.1, fun _ => rfl, g.2.2.2⟩
  · exact h1

@[simp] theorem districtBoardReturns_keeps {a s : State} (d : DistrictId) (h : Keeps a s) :
    Keeps a (districtBoardReturns d s) := by
  unfold districtBoardReturns
  split
  · next e => exact setDistrict_keeps d _ (fun _ => rfl) (fun g => ⟨fun c => absurd e c, g.2.1, g.2.2⟩) h
  · exact h

@[simp] theorem faultFilterExpires_keeps {a s : State} (d : DistrictId) (h : Keeps a s) :
    Keeps a (faultFilterExpires d s) := ite_keeps h (faultIn_keeps d h)

@[simp] theorem retryExpires_keeps {a s : State} (d : DistrictId) (h : Keeps a s) : Keeps a (retryExpires d s) := by
  unfold retryExpires
  split
  · exact h
  · next e =>
    refine boosterEnable_keeps _ _ (setDistrict_keeps d _ (fun _ => rfl) (fun g => ?_) h)
    have ht : (tget s.districts d).state = .tripped := by
      by_contra c
      exact e (g.1 c).1
    refine ⟨fun c => absurd ht c, g.2.1, ?_, g.2.2.2⟩
    simp [boosterOn, ht]

@[simp] theorem confirmExpires_keeps {a s : State} (d : DistrictId) (h : Keeps a s) : Keeps a (confirmExpires d s) := by
  unfold confirmExpires
  split
  · exact h
  · next e =>
    refine districtChanged_keeps _ _ (setDistrict_keeps d _ (fun _ => rfl) (fun g => ?_) h)
    have ht : (tget s.districts d).state = .tripped := by
      by_contra c
      exact e (g.1 c).2
    have hc := g.2.1
    rw [ht] at hc
    refine ⟨fun _ => ⟨rfl, rfl⟩, by simpa using hc, fun hb => ?_, rfl⟩
    simp [boosterOn] at hb

/-! ### New occupancy (R73, R74, R77) -/

@[simp] theorem enterAt_keeps {a s : State} (sg : SignalId) (h : Keeps a s) : Keeps a (enterAt sg s) := by
  unfold enterAt
  repeat' split
  all_goals simp [h]

@[simp] theorem startOverlapTimers_keeps {a s : State} (n : SectionId) (h : Keeps a s) :
    Keeps a (startOverlapTimers n s) := by
  refine forEach_keeps _ _ (fun r s g => ?_) h
  split
  · exact g
  · exact ite_keeps (updRes_keeps _ _ g) g

@[simp] theorem takeSetTrain_keeps {a s : State} (c : Option (ResId × TrainId)) (h : Keeps a s) :
    Keeps a (takeSetTrain c s) := by
  unfold takeSetTrain
  split <;> simp [h]

@[simp] theorem drawOrder_keeps {a s : State} (c : Option (ResId × TrainId)) (h : Keeps a s) :
    Keeps a (drawOrder c s).2 := by
  unfold drawOrder
  split
  · exact h.frame rfl rfl rfl rfl rfl rfl rfl rfl
  · exact h

@[simp] theorem takePassings_keeps {a s : State} (n : SectionId) (l : List SignalId) (h : Keeps a s) :
    Keeps a (takePassings n l s) := by
  unfold takePassings
  dsimp only
  split
  · exact h
  · split
    · exact setFlagAll_keeps _ h
    · exact forEach_keeps _ _ (fun sg _ g => cutDistrict_keeps _ sg g) (setFlagAll_keeps _ h)

@[simp] theorem newOccupancy_keeps {a s : State} (n : SectionId) (l : Option SectionLock) (h : Keeps a s) :
    Keeps a (newOccupancy n l s) := by
  unfold newOccupancy
  dsimp only
  refine takePassings_keeps _ _ (turntableSection_keeps _ _ (openTests_keeps _ (releaseAt_keeps _
    (forEach_keeps _ _ (fun r _ g => sectionalRelease_keeps r g) ?_))))
  have h2 := drawOrder_keeps (setTrainCall l (arrive n l s).2) (arrive_keeps n l h)
  have h6 : Keeps a (startOverlapTimers n (if (drawOrder (setTrainCall l (arrive n l s).2) (arrive n l s).1).1 then
      forEach (entrySignals s n l) enterAt (if (drawOrder (setTrainCall l (arrive n l s).2) (arrive n l s).1).1 then
        takeSetTrain (setTrainCall l (arrive n l s).2) (drawOrder (setTrainCall l (arrive n l s).2) (arrive n l s).1).2
        else (drawOrder (setTrainCall l (arrive n l s).2) (arrive n l s).1).2)
      else takeSetTrain (setTrainCall l (arrive n l s).2) (forEach (entrySignals s n l) enterAt
        (if (drawOrder (setTrainCall l (arrive n l s).2) (arrive n l s).1).1 then
        takeSetTrain (setTrainCall l (arrive n l s).2) (drawOrder (setTrainCall l (arrive n l s).2) (arrive n l s).1).2
        else (drawOrder (setTrainCall l (arrive n l s).2) (arrive n l s).1).2)))) := by
    have h3 := ite_keeps (c := (drawOrder (setTrainCall l (arrive n l s).2) (arrive n l s).1).1 = true)
      (takeSetTrain_keeps (setTrainCall l (arrive n l s).2) h2) h2
    have h4 := forEach_keeps (entrySignals s n l) enterAt (fun sg _ g => enterAt_keeps sg g) h3
    exact startOverlapTimers_keeps _ (ite_keeps h4 (takeSetTrain_keeps _ h4))
  exact ite_keeps h6 (markPassed_keeps _ h6)

@[simp] theorem occupiedReport_keeps {a s : State} (n : SectionId) (h : Keeps a s) : Keeps a (occupiedReport n s) := by
  unfold occupiedReport
  dsimp only
  split <;> simp [h]

@[simp] theorem detectorReport_keeps {a s : State} (n : SectionId) (x : Bool) (h : Keeps a s) :
    Keeps a (detectorReport n x s) := by
  unfold detectorReport
  split
  · exact h
  · exact ite_keeps (ite_keeps (occupiedReport_keeps n h) (clearReport_keeps n h)) h

/-! ### Detection and the ends of throws (R26 to R28, R35 to R38) -/

/-- A MOVING point that comes to rest, or a point at rest that changes its state. -/
@[simp] theorem changeAtRest_keeps {a s : State} (p : PointId) (x : PointState) (hx : x ≠ .moving)
    (hm : (tget s.points p).state ≠ .moving) (h : Keeps a s) : Keeps a (changeAtRest p x s) := by
  unfold changeAtRest
  dsimp only
  split
  · exact h
  · refine pointChanged_keeps _ ?_
    have h1 : Keeps a { s with points := tupd s.points p fun e => { e with state := x } } := by
      refine points_keeps p _ (fun _ => rfl) (fun g => ?_) (fun e => absurd e hx) h
      unfold PointRec.Sound at g ⊢
      rw [if_neg hm] at g
      rw [if_neg (by exact hx)]
      exact g
    exact ite_keeps (pointEvent_keeps _ h1) h1

theorem ThrowOutcome.leaves_ne_moving (o : ThrowOutcome) (t : Option PointPos) : o.leaves t ≠ .moving := by
  cases o <;> rcases t with _ | ⟨_ | _⟩ <;> decide

@[simp] theorem endThrow_keeps {a s : State} (p : PointId) (o : ThrowOutcome) (h : Keeps a s) :
    Keeps a (endThrow p o s) := by
  have hl := ThrowOutcome.leaves_ne_moving o (tget s.points p).target
  have h1 : Keeps a (drivePoint p .idle { s with points := tupd s.points p (PointRec.atEnd o) }) := by
    refine drivePoint_keeps _ _ (points_keeps p _ (fun _ => rfl) (fun _ => ?_) (fun e => absurd e hl) h)
    unfold PointRec.Sound
    rw [if_neg (by exact hl)]
    refine ⟨rfl, rfl, rfl, rfl, ?_⟩
    simp only [PointRec.atEnd]
    split
    · simp
    · assumption
  unfold endThrow
  dsimp only
  have h3 := pointChanged_keeps (tget s.points p).lock
    (ite_keeps (c := endSetsEvent o (tget s.points p).throwOwner = true) (pointEvent_keeps p h1) h1)
  split
  · exact h3
  · exact ownedThrowEnded_keeps _ _ _ h3

@[simp] theorem throwEnd_keeps {a s : State} (p : PointId) (o : ThrowOutcome) (h : Keeps a s) :
    Keeps a (throwEnd p o s) := considerStart_keeps (endThrow_keeps p o h)

theorem atRest_ne_moving {x : PointState} (v : Detection) (h : x ≠ .moving) : atRest x v ≠ .moving := by
  cases x <;> cases v <;> simp_all [atRest]

@[simp] theorem detectionTake_keeps {a s : State} (p : PointId) (v : Detection) (h : Keeps a s) :
    Keeps a (detectionTake p v s) := by
  have h1 : Keeps a { s with points := tupd s.points p fun e => { e with lastDetection := some v } } :=
    points_keeps p _ (fun _ => rfl) (fun g => g) (fun e => e) h
  unfold detectionTake
  dsimp only
  split
  · exact ite_keeps (throwEnd_keeps _ _ h1) h1
  · next e => exact changeAtRest_keeps p _ (atRest_ne_moving v e) (by simpa using e) h1

@[simp] theorem detectionReport_keeps {a s : State} (b : BoardIdx) (c : Channel) (k : Contacts) (h : Keeps a s) :
    Keeps a (detectionReport b c k s) := by
  unfold detectionReport
  split
  · exact h
  · exact ite_keeps (detectionTake_keeps _ _ h) h

@[simp] theorem throwExpires_keeps {a s : State} (p : PointId) (h : Keeps a s) : Keeps a (throwExpires p s) :=
  ite_keeps (throwEnd_keeps _ _ h) h

@[simp] theorem pointFails_keeps {a s : State} (p : PointId) (h : Keeps a s) : Keeps a (pointFails p s) := by
  unfold pointFails
  split
  · exact endThrow_keeps _ _ h
  · exact h
  · next e _ => exact changeAtRest_keeps p _ (by decide) e h

@[simp] theorem orderLost_keeps {a s : State} (o : ThrowOrder) (h : Keeps a s) : Keeps a (orderLost o s) := by
  unfold orderLost
  split <;> simp [h]

@[simp] theorem pointBoardLeaves_keeps {a s : State} (b : BoardIdx) (h : Keeps a s) : Keeps a (pointBoardLeaves b s) :=
  considerStart_keeps (forEach_keeps _ _ (fun o _ g => orderLost_keeps o g)
    (forEach_keeps _ _ (fun p _ g => pointFails_keeps p g) (queue_keeps _ List.filter_sublist h)))

@[simp] theorem clearDelayExpires_keeps {a s : State} (n : SectionId) (h : Keeps a s) : Keeps a (clearDelayExpires n s) :=
  ite_keeps h (clearSection_keeps n h)

@[simp] theorem rechargeExpires_keeps {a s : State} (h : Keeps a s) : Keeps a (rechargeExpires s) :=
  ite_keeps h (considerStart_keeps (h.frame rfl rfl rfl rfl rfl rfl rfl rfl))

end Sys2Proof.Machine
end

