-- ==== Sys2Proof/Laws/KeepsLinks.lean ====
section
/-! SUPPORT. What setting a route, the demonstration unit, the field link and the panel link keep. -/

namespace Sys2Proof.Machine

/-! ### Setting a route (R61, R63, R70, R71) -/

@[simp] theorem unchanged_snd (s : State) (y : Reply) : (unchanged s y).2 = s := rfl

@[simp] theorem territoryRefused_keeps {a s : State} (st : StationId) (c : Byte) (x : ItemRef) (h : Keeps a s) :
    Keeps a (territoryRefused st c x s).2 :=
  setFlag_keeps _ _ (h.frame rfl rfl rfl rfl rfl rfl rfl rfl)

@[simp] theorem takeOver_keeps {a s : State} (q : ResId) (h : Keeps a s) : Keeps a (takeOver q s) := by
  unfold takeOver
  split
  · exact h
  · exact retireIfDone_keeps _ (releaseOverlap_keeps _ (removeOrders_keeps _ _ h))

@[simp] theorem createEntry_keeps {a s : State} (r : ResId) (o : Owner) (n : SlotId) (d : RouteDef) (h : Keeps a s) :
    Keeps a (createEntry r o n d s) :=
  h.frame (by simp [fixed, tmap_tupd, createEntry]) rfl rfl rfl rfl rfl rfl rfl

@[simp] theorem lockSections_keeps {a s : State} (r : ResId) (d : RouteDef) (h : Keeps a s) :
    Keeps a (lockSections r d s) :=
  forEach_keeps _ _ (fun _ _ g => lockSection_keeps _ _ _ g) (forEach_keeps _ _ (fun _ _ g => lockSection_keeps _ _ _ g) h)

@[simp] theorem lockPoints_keeps {a s : State} (r : ResId) (d : RouteDef) (h : Keeps a s) : Keeps a (lockPoints r d s) :=
  forEach_keeps _ _ (fun p _ g => lockPoint_keeps p r g) h

@[simp] theorem appendThrows_keeps {a s : State} (r : ResId) (l : List PointReq) (h : Keeps a s) :
    Keeps a (appendThrows r l s) := forEach_keeps _ _ (fun _ _ g => appendOrder_keeps _ g) h

@[simp] theorem startWork_keeps {a s : State} (r : ResId) (d : RouteDef) (l : List PointReq) (g : Option RoadId)
    (h : Keeps a s) : Keeps a (startWork r d l g s) := by
  unfold startWork
  dsimp only
  have h6 := ite_keeps (c := (deckReq d).isSome = true) (takeDeck_keeps r h) h
  split
  · exact appendThrows_keeps _ _ h6
  · exact placeMove_keeps _ _ (appendThrows_keeps _ _ h6)

@[simp] theorem acceptRoute_keeps {a s : State} (r : ResId) (o : Owner) (n : SlotId) (d : RouteDef) (h : Keeps a s) :
    Keeps a (acceptRoute r o n d s) :=
  recheck_keeps _ (startWork_keeps _ _ _ _ (lockPoints_keeps _ _ (lockSections_keeps _ _ (createEntry_keeps _ _ _ _ h))))

@[simp] theorem setFound_keeps {a s : State} (o : Owner) (n : SlotId) (d : RouteDef) (h : Keeps a s) :
    Keeps a (setFound o n d s).2 := by
  unfold setFound
  split
  · exact h
  · dsimp only
    have h1 : Keeps a (match takenOver s d.entrance with
        | none => s
        | some q => takeOver q s) := by
      split
      · exact h
      · exact takeOver_keeps _ h
    split
    · exact h
    · exact acceptRoute_keeps _ _ _ _ h1

@[simp] theorem setPair_keeps {a s : State} (st : StationId) (c : Byte) (x : SignalId) (e : RouteExit) (h : Keeps a s) :
    Keeps a (setPair st c x e s).2 := by
  unfold setPair
  repeat' split
  all_goals simp [h]

@[simp] theorem setSlotRoute_keeps {a s : State} (n : SlotId) (h : Keeps a s) : Keeps a (setSlotRoute n s).2 := by
  unfold setSlotRoute
  split <;> simp [h]

@[simp] theorem takeLegs_keeps {a s : State} (st : StationId) (l : List (SignalId × SignalId)) (h : Keeps a s) :
    Keeps a (takeLegs st l s).after := by
  induction l generalizing s with
  | nil => exact h
  | cons p rest ih =>
    have h1 := setPair_keeps st codeSetThroughRoute p.1 (.signal p.2) h
    rw [takeLegs]
    unfold Legs.cons
    generalize setPair st codeSetThroughRoute p.1 (.signal p.2) s = z at h1
    split
    · exact ih h1
    · exact h1

@[simp] theorem retryWork_keeps {a s : State} (r : ResId) (l : List PointReq) (g : Option RoadId) (h : Keeps a s) :
    Keeps a (retryWork r l g s) := by
  unfold retryWork
  dsimp only
  refine recheck_keeps _ (updRes_keeps _ _ ?_)
  split <;> simp [h]

@[simp] theorem retrySetting_keeps {a s : State} (r : ResId) (v : Reservation) (d : RouteDef) (h : Keeps a s) :
    Keeps a (retrySetting r v d s).2 := by
  unfold retrySetting
  dsimp only
  repeat' split
  all_goals first | exact h | exact retryWork_keeps _ _ _ h

/-! ### The demonstration unit (R127, R144 to R148) -/

@[simp] theorem goNotNow_keeps {a s : State} (b : ButtonId) (h : Keeps a s) : Keeps a (goNotNow b s) :=
  setButtonState_keeps _ _ (buttons_keeps _ _ (fun _ => rfl) h)

@[simp] theorem goBusy_keeps {a s : State} (b : ButtonId) (w : BusyWith) (h : Keeps a s) : Keeps a (goBusy b w s) :=
  setButtonState_keeps _ _ (buttons_keeps _ _ (fun _ => rfl) h)

@[simp] theorem actTurntable_keeps {a s : State} (b : ButtonId) (g : RoadId) (h : Keeps a s) :
    Keeps a (actTurntable b g s) :=
  ite_keeps (goNotNow_keeps b h) (considerMove_keeps (goBusy_keeps _ _ (setQueue_keeps _ (takeMoveNo_keeps h))))

@[simp] theorem actRoute_keeps {a s : State} (b : ButtonId) (n : SlotId) (h : Keeps a s) : Keeps a (actRoute b n s) := by
  unfold actRoute
  dsimp only
  split
  · exact goBusy_keeps _ _ (setSlotRoute_keeps n h)
  · exact goNotNow_keeps _ (setSlotRoute_keeps n h)

@[simp] theorem act_keeps {a s : State} (b : ButtonId) (h : Keeps a s) : Keeps a (act b s) := by
  unfold act
  repeat' split
  all_goals simp [h]

@[simp] theorem press_keeps {a s : State} (b : ButtonId) (h : Keeps a s) : Keeps a (press b s) := by
  unfold press
  split
  · exact act_keeps b h
  · exact buttons_keeps b _ (fun _ => rfl) h
  all_goals exact h

@[simp] theorem levelTake_keeps {a s : State} (b : ButtonId) (x : Bool) (h : Keeps a s) : Keeps a (levelTake b x s) :=
  ite_keeps (press_keeps b (buttons_keeps b _ (fun _ => rfl) h)) (buttons_keeps b _ (fun _ => rfl) h)

@[simp] theorem buttonReport_keeps {a s : State} (b : BoardIdx) (c : Channel) (x : Bool) (h : Keeps a s) :
    Keeps a (buttonReport b c x s) := by
  unfold buttonReport
  split
  · exact h
  · exact ite_keeps (levelTake_keeps _ _ h) h

@[simp] theorem buttonBoardLeaves_keeps {a s : State} (b : BoardIdx) (h : Keeps a s) : Keeps a (buttonBoardLeaves b s) :=
  forEach_keeps _ _ (fun i _ g => buttons_keeps i _ (fun _ => rfl) g) h

@[simp] theorem goOff_keeps {a s : State} (b : ButtonId) (h : Keeps a s) : Keeps a (goOff b s) :=
  setButtonState_keeps _ _ (buttons_keeps _ _ (fun _ => rfl) h)

@[simp] theorem openDayOn_keeps {a s : State} (h : Keeps a s) : Keeps a (openDayOn s) :=
  forEach_keeps _ _ (fun b _ g => setButtonState_keeps b _ g) (h.frame rfl rfl rfl rfl rfl rfl rfl rfl)

@[simp] theorem openDayOff_keeps {a s : State} (h : Keeps a s) : Keeps a (openDayOff s).2 := by
  unfold openDayOff
  dsimp only
  refine forEach_keeps _ _ (fun r _ g => cancel_keeps r g) ?_
  have h1 : Keeps a (forEach (List.finRange 8) goOff { s with openDay := false }) :=
    forEach_keeps _ _ (fun b _ g => goOff_keeps b g) (h.frame rfl rfl rfl rfl rfl rfl rfl rfl)
  exact ite_keeps h1 (considerMove_keeps (setQueue_keeps _ h1))

@[simp] theorem lampExpires_keeps {a s : State} (b : ButtonId) (h : Keeps a s) : Keeps a (lampExpires b s) :=
  ite_keeps h (setButtonState_keeps _ _ (buttons_keeps b _ (fun _ => rfl) h))

@[simp] theorem cooldownExpires_keeps {a s : State} (b : ButtonId) (h : Keeps a s) : Keeps a (cooldownExpires b s) :=
  ite_keeps h (setButtonState_keeps _ _ (buttons_keeps b _ (fun _ => rfl) h))

/-! ### The owners' rules (R157) -/

@[simp] theorem detectorBoardLeaves_keeps {a s : State} (b : BoardIdx) (h : Keeps a s) :
    Keeps a (detectorBoardLeaves b s) := forEach_keeps _ _ (fun n _ g => holdSection_keeps n g) h

@[simp] theorem setControlled_keeps {a s : State} (x : Bool) (sg : SignalId) (h : Keeps a s) :
    Keeps a (setControlled x sg s) := by
  have h1 := deriveSignal_keeps sg (signals_keeps sg (fun e => { e with controlled := x }) (fun _ => rfl) h)
  unfold setControlled
  dsimp only
  split
  · exact h1
  · exact testOpen_keeps _ h1

@[simp] theorem displayBoardReturns_keeps {a s : State} (b : BoardIdx) (h : Keeps a s) :
    Keeps a (displayBoardReturns b s) := forEach_keeps _ _ (fun i _ g => depBoards_keeps i _ (fun _ => rfl) g) h

@[simp] theorem ownersLeave_keeps {a s : State} (b : BoardIdx) (h : Keeps a s) : Keeps a (ownersLeave b s) := by
  unfold ownersLeave
  split
  · exact h
  · simp [h]
  · simp [h]
  · exact forEach_keeps _ _ (fun sg _ g => setControlled_keeps _ sg g) h
  · exact forEach_keeps _ _ (fun d _ g => districtBoardLeaves_keeps d g) h
  · simp [h]
  · exact h
  · simp [h]

@[simp] theorem ownersReturn_keeps {a s : State} (b : BoardIdx) (h : Keeps a s) : Keeps a (ownersReturn b s) := by
  unfold ownersReturn
  split
  · exact forEach_keeps _ _ (fun sg _ g => setControlled_keeps _ sg g) h
  · exact forEach_keeps _ _ (fun d _ g => districtBoardReturns_keeps d g) h
  · simp [h]
  · simp [h]
  · exact h

/-! ### Handing inputs (R152) -/

@[simp] theorem handDetector_keeps {a s : State} (b : BoardIdx) (x : Vector Bool 16) (h : Keeps a s) :
    Keeps a (handDetector b x s) := by
  refine forEach_keeps _ _ (fun i s g => ?_) h
  split
  · exact g
  · exact detectorReport_keeps _ _ g

@[simp] theorem handFaults_keeps {a s : State} (b : BoardIdx) (x : Vector Bool 8) (h : Keeps a s) :
    Keeps a (handFaults b x s) := by
  refine forEach_keeps _ _ (fun i s g => ?_) h
  split
  · exact g
  · exact faultReport_keeps _ _ g

@[simp] theorem handInputs_keeps {a s : State} (b : BoardIdx) (i : BoardInputs) (h : Keeps a s) :
    Keeps a (handInputs b i s) := by
  unfold handInputs
  split
  · simp [h]
  · exact forEach_keeps _ _ (fun c _ g => detectionReport_keeps _ c _ g) h
  · exact h
  · simp [h]
  · simp [h]
  · exact h
  · exact forEach_keeps _ _ (fun c _ g => buttonReport_keeps _ c _ g) h

/-! ### Sending (R152 to R154) -/

@[simp] theorem sendRefresh_keeps {a s : State} (b : BoardIdx) (h : Keeps a s) : Keeps a (sendRefresh b s) :=
  setLink_keeps _ h

@[simp] theorem sendRoundRobin_keeps {a s : State} (h : Keeps a s) : Keeps a (sendRoundRobin s) := by
  unfold sendRoundRobin
  split <;> simp [h]

@[simp] theorem sendRepoll_keeps {a s : State} (h : Keeps a s) : Keeps a (sendRepoll s) := by
  unfold sendRepoll
  split
  · exact sendRefresh_keeps _ (setBoard_keeps _ _ (fun _ => rfl) h)
  · exact sendRoundRobin_keeps h

@[simp] theorem sendLineOf_keeps {a s : State} (h : Keeps a s) : ∀ l, Keeps a (sendLineOf l s)
  | [] => sendRepoll_keeps (setLink_keeps _ h)
  | b :: rest => by
    unfold sendLineOf
    split
    · exact setLink_keeps _ h
    · exact sendLineOf_keeps h rest

@[simp] theorem sendLine_keeps {a s : State} (h : Keeps a s) : Keeps a (sendLine s) := sendLineOf_keeps h _

@[simp] theorem sendReturned_keeps {a s : State} (h : Keeps a s) : Keeps a (sendReturned s) := by
  unfold sendReturned
  split <;> simp [h]

@[simp] theorem sendNext_keeps {a s : State} (h : Keeps a s) : Keeps a (sendNext s) :=
  ite_keeps (setLink_keeps _ h) (sendReturned_keeps h)

@[simp] theorem exchangeEnds_keeps {a s : State} (x : Bool) (h : Keeps a s) : Keeps a (exchangeEnds x s) :=
  sendNext_keeps (setLink_keeps _ h)

@[simp] theorem startSending_keeps {a s : State} (h : Keeps a s) : Keeps a (startSending s) :=
  ite_keeps (sendReturned_keeps h) h

/-! ### Misses, answers and returns (R151 to R156) -/

@[simp] theorem boardFails_keeps {a s : State} (b : BoardIdx) (h : Keeps a s) : Keeps a (boardFails b s) := by
  have h1 : Keeps a (boardEvent (setBoard b (fun b => { b with state := .failed, missCount := 3, repollTimer := some boardRepollTime, repollDue := false }) s)) :=
    setFlag_keeps _ _ (setBoard_keeps _ _ (fun _ => rfl) h)
  exact ite_keeps (ownersLeave_keeps _ h1) h1

@[simp] theorem boardMiss_keeps {a s : State} (b : BoardIdx) (h : Keeps a s) : Keeps a (boardMiss b s) :=
  ite_keeps h (ite_keeps (setBoard_keeps _ _ (fun _ => rfl) h)
    (ite_keeps (setBoard_keeps _ _ (fun _ => rfl) h) (boardFails_keeps b h)))

@[simp] theorem boardReturns_keeps {a s : State} (b : BoardIdx) (h : Keeps a s) : Keeps a (boardReturns b s) := by
  have h2 : Keeps a (ownersReturn b (setLink (fun l => { l with returned := l.returned ++ [b] })
      (setBoard b (fun b => { b with state := .present, missCount := 0, repollTimer := none, repollDue := false }) s))) :=
    ownersReturn_keeps _ (setLink_keeps _ (setBoard_keeps _ _ (fun _ => rfl) h))
  exact ite_keeps (setFlag_keeps _ _ h2) h2

@[simp] theorem goodInputs_keeps {a s : State} (b : BoardIdx) (i : BoardInputs) (h : Keeps a s) :
    Keeps a (goodInputs b i s) := by
  have h1 := setBoard_keeps b (fun b => { b with mismatch := false }) (fun _ => rfl) h
  exact ite_keeps (handInputs_keeps _ _ (setBoard_keeps _ _ (fun _ => rfl) h1)) (boardReturns_keeps _ h1)

@[simp] theorem wrongType_keeps {a s : State} (b : BoardIdx) (h : Keeps a s) : Keeps a (wrongType b s) :=
  boardMiss_keeps _ (ite_keeps h (setFlag_keeps _ _ (setBoard_keeps _ _ (fun _ => rfl) h)))

@[simp] theorem imageAnswers_keeps {a s : State} (b : BoardIdx) (i : BoardInputs) (h : Keeps a s) :
    Keeps a (imageAnswers b i s) := by
  unfold imageAnswers
  split
  · exact h
  · exact ite_keeps (goodInputs_keeps _ _ (ite_keeps (setLink_keeps _ h) h)) (wrongType_keeps _ h)

@[simp] theorem exchangeMissed_keeps {a s : State} (x : Bool) (h : Keeps a s) : Keeps a (exchangeMissed x s) := by
  unfold exchangeMissed
  split <;> simp [h]

@[simp] theorem grantEnds_keeps {a s : State} (h : Keeps a s) : Keeps a (grantEnds s) := ite_keeps (sendNext_keeps h) h

@[simp] theorem takeImage_keeps {a s : State} (b : BoardIdx) (i : BoardInputs) (x : Bool) (h : Keeps a s) :
    Keeps a (takeImage b i x s) := by
  refine ite_keeps h ?_
  split
  · exact h
  · exact grantEnds_keeps h
  · exact ite_keeps (exchangeEnds_keeps _ (imageAnswers_keeps _ _ h)) (exchangeMissed_keeps _ h)

@[simp] theorem takeReport_keeps {a s : State} (b : BoardIdx) (i : BoardInputs) (h : Keeps a s) :
    Keeps a (takeReport b i s) := by
  unfold takeReport
  split
  · exact h
  · exact grantEnds_keeps (ite_keeps (goodInputs_keeps _ _ h) h)
  · exact ite_keeps (exchangeMissed_keeps _ h) h

@[simp] theorem lineConfirmed_keeps {a s : State} (b : BoardIdx) (n : LineNo) (t : List Byte) (h : Keeps a s) :
    Keeps a (lineConfirmed b n t s) :=
  forEach_keeps _ _ (fun _ _ g => ite_keeps (depBoards_keeps _ _ (fun _ => rfl) g) g) h

@[simp] theorem takeLineTaken_keeps {a s : State} (b : BoardIdx) (n : LineNo) (x : Bool) (h : Keeps a s) :
    Keeps a (takeLineTaken b n x s) := by
  refine ite_keeps h ?_
  split
  · exact h
  · exact grantEnds_keeps h
  · exact exchangeMissed_keeps _ h
  · exact ite_keeps (exchangeEnds_keeps _ (lineConfirmed_keeps _ _ _ (setBoard_keeps _ _ (fun _ => rfl) h)))
      (exchangeMissed_keeps _ h)

@[simp] theorem boardRepollExpires_keeps {a s : State} (b : BoardIdx) (h : Keeps a s) : Keeps a (boardRepollExpires b s) :=
  ite_keeps h (startSending_keeps (setBoard_keeps _ _ (fun _ => rfl) h))

/-! ### The panel link (R161 to R163) -/

@[simp] theorem nextPoll_keeps {a s : State} (h : Keeps a s) : Keeps a (nextPoll s) := by
  unfold nextPoll
  split
  · exact setPanel_keeps _ h
  · split
    · exact setPanel_keeps _ (setStation_keeps _ _ (fun _ => ⟨rfl, rfl⟩) h)
    · split <;> simp [h]

@[simp] theorem goodReply_keeps {a s : State} (st : StationId) (h : Keeps a s) : Keeps a (goodReply st s) := by
  have h1 := setStation_keeps st (fun e => { e with present := true, missCount := 0, repollTimer := none, repollDue := false })
    (fun _ => ⟨rfl, rfl⟩) h
  exact ite_keeps h1 (setFlag_keeps _ _ h1)

@[simp] theorem stationMiss_keeps {a s : State} (st : StationId) (h : Keeps a s) : Keeps a (stationMiss st s) :=
  ite_keeps h (ite_keeps (setStation_keeps _ _ (fun _ => ⟨rfl, rfl⟩) h)
    (setFlag_keeps _ _ (setStation_keeps _ _ (fun _ => ⟨rfl, rfl⟩) h)))

@[simp] theorem pollMissed_keeps {a s : State} (h : Keeps a s) : Keeps a (pollMissed s) := by
  unfold pollMissed
  split <;> simp [h]

@[simp] theorem stationRepollExpires_keeps {a s : State} (st : StationId) (h : Keeps a s) :
    Keeps a (stationRepollExpires st s) := by
  have h1 := setStation_keeps st (fun e => { e with repollTimer := some stationRepollTime, repollDue := true })
    (fun _ => ⟨rfl, rfl⟩) h
  exact ite_keeps h (ite_keeps (nextPoll_keeps h1) h1)

@[simp] theorem takeIdle_keeps {a s : State} (st : StationId) (h : Keeps a s) : Keeps a (takeIdle st s) :=
  ite_keeps h (ite_keeps (nextPoll_keeps (goodReply_keeps _ h)) (pollMissed_keeps h))

@[simp] theorem respond_keeps {a s : State} (st : StationId) (t c : Byte) (y : Reply) (h : Keeps a s) :
    Keeps a (respond st t c y s) := nextPoll_keeps (setPanel_keeps _ h)

/-- A request whose handling keeps is a request that keeps. -/
theorem takeRequest_keeps {a s : State} (st : StationId) (t c : Byte) (f : State → Handled)
    (hf : ∀ s, Keeps a s → Keeps a (f s).2) (h : Keeps a s) : Keeps a (takeRequest st t c f s) :=
  ite_keeps h (ite_keeps (respond_keeps _ _ _ _ (hf _ (goodReply_keeps _ h))) (pollMissed_keeps h))

theorem whenReady_keeps {a s : State} (f : State → Handled) (hf : Keeps a (f s).2) (h : Keeps a s) :
    Keeps a (whenReady f s).2 := by
  unfold whenReady
  split
  · exact hf
  · exact h

end Sys2Proof.Machine
end

