-- ==== Sys2Proof/Laws/KeepsRequests.lean ====
section
/-! SUPPORT. What the handling of each request and each timer of the tables keeps. -/

namespace Sys2Proof.Machine

/-! ### Track requests (R9, R18, R19, R24, R39, R40) -/

theorem handleReadSection_snd (n : Nat) (s : State) : (handleReadSection n s).2 = s := rfl
theorem handleReadDistrict_snd (n : Nat) (s : State) : (handleReadDistrict n s).2 = s := rfl
theorem handleReadSignal_snd (n : Nat) (s : State) : (handleReadSignal n s).2 = s := rfl
theorem handleReadPoint_snd (n : Nat) (s : State) : (handleReadPoint n s).2 = s := rfl

theorem throwConfigured_keeps {a s : State} (p : PointId) (c : PointCfg) (x : PointPos) (h : Keeps a s) :
    Keeps a (throwConfigured p c x s).2 := by
  unfold throwConfigured throwOrder
  repeat' split
  all_goals first | exact h | exact appendOrder_keeps _ h

theorem handleThrow_keeps {a s : State} (st : StationId) (n : Nat) (x : Option PointPos) (h : Keeps a s) :
    Keeps a (handleThrow st n x s).2 := by
  unfold handleThrow
  repeat' split
  all_goals first | exact h | exact throwConfigured_keeps _ _ _ h | exact territoryRefused_keeps _ _ _ h

theorem handleRestore_keeps {a s : State} (st : StationId) (n : Nat) (h : Keeps a s) : Keeps a (handleRestore st n s).2 := by
  unfold handleRestore
  dsimp only
  repeat' split
  all_goals first | exact h | exact districtChanged_keeps _ _ (energise_keeps _ h)

/-! ### Route requests (R51, R58, R70 to R72, R80, R86) -/

theorem handleSetRoute_keeps {a s : State} (st : StationId) (n : Nat) (x : ExitParam) (h : Keeps a s) :
    Keeps a (handleSetRoute st n x s).2 := by
  unfold handleSetRoute
  split
  · exact setPair_keeps _ _ _ _ h
  · exact h

theorem handleSetThrough_keeps {a s : State} (st : StationId) (l : List Nat) (h : Keeps a s) :
    Keeps a (handleSetThrough st l s).2 := by
  unfold handleSetThrough
  dsimp only
  repeat' split
  all_goals first | exact h | exact takeLegs_keeps _ _ h

theorem handleRetry_keeps {a s : State} (st : StationId) (n : Nat) (h : Keeps a s) : Keeps a (handleRetry st n s).2 := by
  unfold handleRetry
  repeat' split
  all_goals first | exact h | exact retrySetting_keeps _ _ _ h

theorem handleCancel_keeps {a s : State} (st : StationId) (n : Nat) (h : Keeps a s) : Keeps a (handleCancel st n s).2 := by
  unfold handleCancel
  repeat' split
  all_goals first | exact h | exact cancel_keeps _ h

theorem emergencyWork_keeps {a s : State} (r : ResId) (h : Keeps a s) : Keeps a (emergencyWork r s) := by
  have h2 := withdrawWork_keeps r (changeState_keeps r .releasing (updRes_keeps r (Reservation.releasing s.timing) h))
  exact ite_keeps (releaseDeck_keeps r h2) h2

theorem handleEmergency_keeps {a s : State} (st : StationId) (n : Nat) (h : Keeps a s) :
    Keeps a (handleEmergency st n s).2 := by
  unfold handleEmergency
  repeat' split
  all_goals first | exact h | exact emergencyWork_keeps _ h

theorem handleReadReservation_snd (n : Nat) (s : State) : (handleReadReservation n s).2 = s := rfl
theorem handleReadRoutes_snd (f : RoutesForm) (s : State) : (handleReadRoutes f s).2 = s := rfl

theorem overlapExpires_keeps {a s : State} (r : ResId) (h : Keeps a s) : Keeps a (overlapExpires r s) := by
  unfold overlapExpires
  split
  · exact h
  · exact retireIfDone_keeps _ (releaseOverlap_keeps _ h)

theorem approachExpires_keeps {a s : State} (r : ResId) (h : Keeps a s) : Keeps a (approachExpires r s) := by
  unfold approachExpires
  split <;> simp [h]

theorem emergencyExpires_keeps {a s : State} (r : ResId) (h : Keeps a s) : Keeps a (emergencyExpires r s) := by
  unfold emergencyExpires
  split <;> simp [h]

theorem demoHoldExpires_keeps {a s : State} (r : ResId) (h : Keeps a s) : Keeps a (demoHoldExpires r s) := by
  unfold demoHoldExpires
  split
  · exact h
  · exact ite_keeps (cancel_keeps _ (updRes_keeps _ _ h)) (updRes_keeps _ _ h)

/-! ### Train requests (R100 to R106) -/

@[simp] theorem tellSupervisor_keeps {a s : State} (st : StationId) (h : Keeps a s) : Keeps a (tellSupervisor st s) :=
  ite_keeps h (setFlag_keeps _ _ h)

theorem createTrain_keeps {a s : State} (st : StationId) (t : Train) (ht : ∀ n, t.head = some n → headIn s n = none)
    (h : Keeps a s) : Keeps a (createTrain st t s).2 := by
  unfold createTrain
  split
  · exact h
  · next x _ _ =>
    dsimp only
    have h1 : Keeps a (tellSupervisor st { s with trains := tput s.trains x (some t) }) := by
      refine tellSupervisor_keeps _ (trains_keeps x _ (fun v n hv hn => Or.inr ?_) h)
      rw [← Option.some.inj hv] at hn
      exact ht n hn
    split
    · exact h1
    · exact deckHeadChanged_keeps _ h1

theorem handleInterpose_keeps {a s : State} (st : StationId) (sec : Nat) (c : Headcode) (k : Option TrainKind) (l : Nat)
    (d : List Byte) (f : Option DeckEnd) (h : Keeps a s) : Keeps a (handleInterpose st sec c k l d f s).2 := by
  unfold handleInterpose
  split
  · split
    · exact h
    · split
      · exact h
      · split
        · exact h
        · split
          · exact h
          · split
            · exact h
            · next e =>
              refine createTrain_keeps _ _ (fun n hn => ?_) h
              simp only [Option.some.injEq] at hn
              rw [← hn]
              exact e
  · exact h

theorem handleEnterTrain_keeps {a s : State} (st : StationId) (c : Headcode) (k : Option TrainKind) (l : Nat)
    (d : List Byte) (h : Keeps a s) : Keeps a (handleEnterTrain st c k l d s).2 := by
  unfold handleEnterTrain
  split
  · exact h
  · split
    · exact h
    · exact createTrain_keeps _ _ (fun n hn => by simp at hn) h

theorem moveTrainTo_keeps {a s : State} (st : StationId) (t : TrainId) (v : Train) (n : SectionId) (f : Option DeckEnd)
    (hn : headIn s n = none) (h : Keeps a s) : Keeps a (moveTrainTo st t v n f s) := by
  unfold moveTrainTo
  dsimp only
  refine deckHeadChanged_keeps _ ?_
  have h1 : Keeps a (tellSupervisor st (updTrain t (fun v => { v with head := some n, facing := f, lost := false }) s)) :=
    tellSupervisor_keeps _ (updTrain_keeps _ _ (fun v m _ e => Or.inr (by simp at e; rw [← e]; exact hn)) h)
  split
  · exact h1
  · exact deckHeadChanged_keeps _ h1

theorem handleMoveTrain_keeps {a s : State} (st : StationId) (t n : Nat) (f : Option DeckEnd) (h : Keeps a s) :
    Keeps a (handleMoveTrain st t n f s).2 := by
  unfold handleMoveTrain
  repeat' split
  all_goals first
    | exact h
    | exact moveTrainTo_keeps _ _ _ _ _ (by assumption) h

theorem clearResTrain_keeps {a s : State} (r : ResId) (h : Keeps a s) : Keeps a (clearResTrain r s) := by
  unfold clearResTrain
  split <;> simp [h]

theorem deleteTrainWork_keeps {a s : State} (st : StationId) (t : TrainId) (v : Train) (h : Keeps a s) :
    Keeps a (deleteTrainWork st t v s) := by
  have h1 := trains_keeps t none (fun v n hv => by simp at hv) h
  have h2 := tellSupervisor_keeps st (annTrainDeleted_keeps t
    (forEach_keeps (reservationsOf s t) clearResTrain (fun r _ g => clearResTrain_keeps r g) h1))
  unfold deleteTrainWork
  dsimp only
  split
  · exact h2
  · exact deckHeadChanged_keeps _ h2

theorem handleDeleteTrain_keeps {a s : State} (st : StationId) (t : Nat) (h : Keeps a s) :
    Keeps a (handleDeleteTrain st t s).2 := by
  unfold handleDeleteTrain
  repeat' split
  all_goals first | exact h | exact deleteTrainWork_keeps _ _ _ h

theorem editTrainWork_keeps {a s : State} (st : StationId) (t : TrainId) (v : Train) (e : TrainEdit)
    (hv : tget s.trains t = some v) (h : Keeps a s) : Keeps a (editTrainWork st t v e s) := by
  have h1 : Keeps a (tellSupervisor st { s with trains := tput s.trains t (some (v.edited e)) }) := by
    refine tellSupervisor_keeps _ (trains_keeps t _ (fun w n hw hn => Or.inl ?_) h)
    rw [← Option.some.inj hw] at hn
    rw [hv]
    exact hn
  have h2 := ite_keeps (c := (v.edited e).headcode = v.headcode) h1 (annHeadcode_keeps t (v.edited e).headcode h1)
  exact ite_keeps h2 (annDestination_keeps _ _ h2)

theorem handleEditTrain_keeps {a s : State} (st : StationId) (t : Nat) (e : TrainEdit) (h : Keeps a s) :
    Keeps a (handleEditTrain st t e s).2 := by
  unfold handleEditTrain
  repeat' split
  all_goals first | exact h | exact editTrainWork_keeps _ _ _ _ (by assumption) h

theorem handleReadTrain_snd (t : Nat) (s : State) : (handleReadTrain t s).2 = s := rfl
theorem handleFindTrain_snd (c : Headcode) (s : State) : (handleFindTrain c s).2 = s := rfl

/-! ### Turntable requests (R115, R120, R122, R125, R128 to R130) -/

theorem startHoming_keeps {a s : State} (hs : s.tt.state.positioned = false) (h : Keeps a s) : Keeps a (startHoming s) := by
  unfold startHoming
  dsimp only
  refine turntableChanged_keeps (setTtOutputs_keeps _ (setTt_keeps _ (fun _ => rfl) (fun g => ?_) (takeMoveNo_keeps h)))
  have g' : s.tt.position.isSome = s.tt.state.positioned := g
  rw [hs] at g'
  exact g'

theorem handleHome_keeps {a s : State} (st : StationId) (h : Keeps a s) : Keeps a (handleHome st s).2 := by
  unfold handleHome
  repeat' split
  all_goals first
    | exact h
    | skip
  next e _ _ _ =>
  refine startHoming_keeps ?_ h
  by_cases e1 : s.tt.state = .unknown
  · rw [e1]; rfl
  · by_cases e2 : s.tt.state = .failed
    · rw [e2]; rfl
    · exact absurd ⟨e1, e2⟩ e

theorem handleTurntableMove_keeps {a s : State} (st : StationId) (n : Nat) (e : Option MoveEnd) (h : Keeps a s) :
    Keeps a (handleTurntableMove st n e s).2 := by
  unfold handleTurntableMove movePermitted
  repeat' split
  all_goals first | exact h | exact queueMove_keeps _ h | exact territoryRefused_keeps _ _ _ h

theorem handleTurntableReset_keeps {a s : State} (st : StationId) (h : Keeps a s) :
    Keeps a (handleTurntableReset st s).2 := by
  unfold handleTurntableReset
  repeat' split
  all_goals first | exact h | exact resetTurntable_keeps h

theorem reportWithdrawn_keeps {a s : State} (st : StationId) (m : Move) (h : Keeps a s) :
    Keeps a (reportWithdrawn st m s) := by
  unfold reportWithdrawn
  split
  · exact ite_keeps (setFlag_keeps _ _ h) h
  · exact busyEnds_keeps _ h
  · exact h
  · exact h

theorem handleWithdrawMove_keeps {a s : State} (st : StationId) (n : Nat) (h : Keeps a s) :
    Keeps a (handleWithdrawMove st n s).2 := by
  unfold handleWithdrawMove withdrawQueued
  dsimp only
  repeat' split
  all_goals first | exact h | exact considerMove_keeps (reportWithdrawn_keeps _ _ (setQueue_keeps _ h))

theorem handleReadTurntable_snd (s : State) : (handleReadTurntable s).2 = s := rfl

theorem waitExpires_keeps {a s : State} (h : Keeps a s) : Keeps a (waitExpires s) := by
  unfold waitExpires
  split
  · exact h
  · exact ite_keeps h (considerMove_keeps (reportMove_keeps _ (setQueue_keeps _ h)))

theorem stageExpires_keeps {a s : State} (h : Keeps a s) : Keeps a (stageExpires s) := ite_keeps h (enterFailed_keeps h)

/-! ### Displays and buttons (R137, R140 to R143, R148, R149) -/

theorem createAnn_keeps {a s : State} (n : AnnId) (v : Announcement) (h : Keeps a s) : Keeps a (createAnn n v s) := by
  refine putAnn_keeps _ _ (h.frame ?_ rfl rfl rfl rfl rfl rfl rfl)
  simp [fixed, tmap_tupd]

theorem handleAnnounce_keeps {a s : State} (st : StationId) (b t sg : Nat) (time : List Byte) (d : Option (List Byte))
    (h : Keeps a s) : Keeps a (handleAnnounce st b t sg time d s).2 := by
  unfold handleAnnounce announceFound
  dsimp only
  repeat' split
  all_goals first | exact h | exact createAnn_keeps _ _ h | exact territoryRefused_keeps _ _ _ h

theorem sourceDrawn_keeps {a s : State} (e : AnnEdit) (h : Keeps a s) : Keeps a (sourceDrawn e s) := by
  unfold sourceDrawn
  split
  · exact h.frame rfl rfl rfl rfl rfl rfl rfl rfl
  · exact h

theorem handleEditAnn_keeps {a s : State} (st : StationId) (n : Nat) (e : AnnEdit) (h : Keeps a s) :
    Keeps a (handleEditAnn st n e s).2 := by
  unfold handleEditAnn editAnnFound
  dsimp only
  repeat' split
  all_goals first | exact h | exact putAnn_keeps _ _ (sourceDrawn_keeps _ h) | exact territoryRefused_keeps _ _ _ h

theorem handleWithdrawAnn_keeps {a s : State} (st : StationId) (n : Nat) (h : Keeps a s) :
    Keeps a (handleWithdrawAnn st n s).2 := by
  unfold handleWithdrawAnn
  repeat' split
  all_goals first | exact h | exact retireAnn_keeps _ h | exact territoryRefused_keeps _ _ _ h

theorem handleReadBoard_snd (b l : Nat) (s : State) : (handleReadBoard b l s).2 = s := rfl

theorem lingerExpires_keeps {a s : State} (n : AnnId) (h : Keeps a s) : Keeps a (lingerExpires n s) :=
  ite_keeps (retireAnn_keeps _ h) h

theorem handleSetOpenDay_keeps {a s : State} (st : StationId) (v : Option Bool) (h : Keeps a s) :
    Keeps a (handleSetOpenDay st v s).2 := by
  have h1 := openDayOn_keeps h
  have h2 := openDayOff_keeps h
  unfold handleSetOpenDay
  split
  · exact h
  · split
    · exact h
    · split
      · exact h
      · generalize openDayOff s = z at h2
        split
        · exact h1
        · exact h2

theorem handleReadButtons_snd (s : State) : (handleReadButtons s).2 = s := rfl

/-! ### Supervision (R168, R169) and the clock -/

theorem handleReadEvents_keeps {a s : State} (st : StationId) (h : Keeps a s) : Keeps a (handleReadEvents st s).2 := by
  unfold handleReadEvents
  dsimp only
  exact clearFlags_keeps st h

theorem handleReadStatus_snd (s : State) : (handleReadStatus s).2 = s := rfl

end Sys2Proof.Machine
end

