-- ==== Sys2Proof/Laws/Memory.lean ====
section
/-! SUPPORT. The bytes of the geometry store: every operation keeps the canonical form, and a write changes the bytes it
names and no other. Then what the store's operations keep. -/

namespace Sys2Proof.Machine

/-! ### The canonical form -/

theorem Memory.above_cons (lo b : Nat) (w : Byte) (rest : List Host.Cell) :
    Memory.above lo ((b, w) :: rest) = true ↔ lo ≤ b ∧ w ≠ erasedByte ∧ Memory.above (b + 1) rest = true := by
  simp [Memory.above, and_assoc]

theorem Memory.above_mono {lo hi : Nat} {m : List Host.Cell} (h : lo ≤ hi) (hm : Memory.above hi m = true) :
    Memory.above lo m = true := by
  cases m with
  | nil => rfl
  | cons c rest =>
    obtain ⟨b, w⟩ := c
    rw [Memory.above_cons] at hm ⊢
    exact ⟨h.trans hm.1, hm.2⟩

/-- Writing a byte at or above a bound keeps the canonical form above it. -/
theorem memWrite_above {lo a : Nat} {v : Byte} {m : List Host.Cell} (hm : Memory.above lo m = true) (ha : lo ≤ a) :
    Memory.above lo (memWrite m a v) = true := by
  induction m generalizing lo with
  | nil =>
    unfold memWrite
    split
    · rfl
    · next e => rw [Memory.above_cons]; exact ⟨ha, e, rfl⟩
  | cons c rest ih =>
    obtain ⟨b, w⟩ := c
    have h0 := hm
    rw [Memory.above_cons] at hm
    unfold memWrite
    split
    · next hlt =>
      split
      · exact h0
      · next e =>
        rw [Memory.above_cons]
        refine ⟨ha, e, ?_⟩
        rw [Memory.above_cons]
        exact ⟨hlt, hm.2⟩
    · split
      · next e =>
        split
        · exact Memory.above_mono (by omega) hm.2.2
        · next e' =>
          rw [Memory.above_cons]
          exact ⟨ha, e', e ▸ hm.2.2⟩
      · rw [Memory.above_cons]
        exact ⟨hm.1, hm.2.1, ih hm.2.2 (by omega)⟩

/-- A write of one byte keeps the canonical form. -/
theorem memWrite_wf {a : Nat} {v : Byte} {m : List Host.Cell} (hm : Memory.wf m = true) : Memory.wf (memWrite m a v) = true :=
  memWrite_above hm (Nat.zero_le a)

/-- A write of several bytes keeps the canonical form. -/
theorem memWrites_wf {m : List Host.Cell} (a : Nat) (bs : List Byte) (hm : Memory.wf m = true) :
    Memory.wf (memWrites m a bs) = true := by
  induction bs generalizing m a with
  | nil => exact hm
  | cons b rest ih => exact ih (a + 1) (memWrite_wf hm)

/-- An empty store is in canonical form. -/
theorem Memory.wf_nil : Memory.wf [] = true := rfl

/-! ### Reading after writing -/

theorem memRead_of_above {lo a : Nat} {m : List Host.Cell} (hm : Memory.above lo m = true) (ha : a < lo) :
    memRead m a = erasedByte := by
  induction m generalizing lo with
  | nil => rfl
  | cons c rest ih =>
    obtain ⟨b, w⟩ := c
    rw [Memory.above_cons] at hm
    unfold memRead
    rw [if_neg (by omega)]
    exact ih hm.2.2 (by omega)

/-- The byte written reads as written. -/
theorem memRead_memWrite_same {lo : Nat} (a : Nat) (v : Byte) {m : List Host.Cell} (hm : Memory.above lo m = true) :
    memRead (memWrite m a v) a = v := by
  induction m generalizing lo with
  | nil =>
    unfold memWrite
    split
    · next e => rw [e]; rfl
    · simp [memRead]
  | cons c rest ih =>
    obtain ⟨b, w⟩ := c
    have h0 := hm
    rw [Memory.above_cons] at hm
    unfold memWrite
    split
    · next hlt =>
      split
      · next e =>
        rw [e]
        unfold memRead
        rw [if_neg (by omega)]
        exact memRead_of_above hm.2.2 (by omega)
      · simp [memRead]
    · split
      · next e =>
        split
        · next e' =>
          rw [e']
          exact memRead_of_above hm.2.2 (by omega)
        · simp [memRead]
      · next e =>
        unfold memRead
        rw [if_neg e]
        exact ih hm.2.2

/-- Every other byte reads as before. -/
theorem memRead_memWrite_ne {a x : Nat} (v : Byte) (m : List Host.Cell) (h : x ≠ a) :
    memRead (memWrite m a v) x = memRead m x := by
  induction m with
  | nil =>
    unfold memWrite
    split
    · rfl
    · simp [memRead, h]
  | cons c rest ih =>
    obtain ⟨b, w⟩ := c
    unfold memWrite
    split
    · split
      · rfl
      · simp [memRead, h]
    · split
      · next e =>
        subst e
        split
        · simp [memRead, h]
        · simp [memRead, h]
      · unfold memRead
        split
        · rfl
        · exact ih

/-- Every byte outside the bytes written reads as before. -/
theorem memRead_memWrites_outside {a x : Nat} (m : List Host.Cell) (bs : List Byte) (h : x < a ∨ a + bs.length ≤ x) :
    memRead (memWrites m a bs) x = memRead m x := by
  induction bs generalizing a m with
  | nil => rfl
  | cons b rest ih =>
    simp only [List.length_cons] at h
    unfold memWrites
    rw [ih _ (by omega), memRead_memWrite_ne _ _ (by omega)]

/-- The bytes written read as written. -/
theorem memRead_memWrites_inside {a : Nat} (m : List Host.Cell) (bs : List Byte) (hm : Memory.wf m = true) (i : Nat)
    (hi : i < bs.length) : memRead (memWrites m a bs) (a + i) = bs[i] := by
  induction bs generalizing a m i with
  | nil => simp at hi
  | cons b rest ih =>
    unfold memWrites
    cases i with
    | zero =>
      rw [memRead_memWrites_outside _ _ (by omega)]
      exact memRead_memWrite_same a b hm
    | succ k =>
      have := ih (a := a + 1) (memWrite m a b) (memWrite_wf hm) k (by simpa using hi)
      rw [show a + (k + 1) = a + 1 + k by omega]
      exact this

/-! ### The addresses of the listed bytes -/

theorem mem_memWrite {a : Nat} {v : Byte} {m : List Host.Cell} {c : Host.Cell} (h : c ∈ memWrite m a v) :
    c ∈ m ∨ c.1 = a := by
  induction m with
  | nil =>
    unfold memWrite at h
    split at h
    · simp at h
    · simp at h; right; rw [h]
  | cons d rest ih =>
    obtain ⟨b, w⟩ := d
    unfold memWrite at h
    split at h
    · split at h
      · exact Or.inl h
      · simp only [List.mem_cons] at h ⊢
        rcases h with h | h
        · right; rw [h]
        · exact Or.inl h
    · split at h
      · split at h
        · exact Or.inl (List.mem_cons_of_mem _ h)
        · simp only [List.mem_cons] at h ⊢
          rcases h with h | h
          · right; rw [h]
          · exact Or.inl (Or.inr h)
      · simp only [List.mem_cons] at h ⊢
        rcases h with h | h
        · exact Or.inl (Or.inl h)
        · rcases ih h with g | g
          · exact Or.inl (Or.inr g)
          · exact Or.inr g

theorem mem_memWrites {a : Nat} {bs : List Byte} {m : List Host.Cell} {c : Host.Cell} (h : c ∈ memWrites m a bs) :
    c ∈ m ∨ (a ≤ c.1 ∧ c.1 < a + bs.length) := by
  induction bs generalizing a m with
  | nil => exact Or.inl h
  | cons b rest ih =>
    unfold memWrites at h
    simp only [List.length_cons]
    rcases ih h with g | g
    · rcases mem_memWrite g with k | k
      · exact Or.inl k
      · right; omega
    · right; omega

/-! ### The store's operations -/

theorem blockArea_inside (k : Fin 9) (p : Nat) (hp : p < blockPages k) :
    (blockArea k).1 + pageSize * p + pageSize ≤ storeSize := by
  unfold blockPages pageSize storeSize at *
  fin_cases k <;> simp [blockArea] at hp ⊢ <;> omega

/-- A page in the store lies within its addresses. -/
theorem StorePage.address_inside {q : StorePage} (h : q.inStore = true) : q.address + pageSize ≤ storeSize := by
  cases q with
  | header => decide
  | slot n =>
    have := n.isLt
    simp only [StorePage.address, slotAddress, pageSize, storeSize]
    omega
  | config k p => exact blockArea_inside k p (by simpa [StorePage.inStore] using h)

/-- A page written into a sound store leaves a sound store. -/
theorem putPage_sound {s : State} {q : StorePage} {bs : List Byte} (h : StoreSound s) (hq : q.inStore = true)
    (hb : bs.length = pageSize) :
    Memory.wf (putPage q.address bs s).store = true ∧ ∀ c ∈ (putPage q.address bs s).store, c.1 < storeSize := by
  refine ⟨memWrites_wf _ _ h.1, fun c hc => ?_⟩
  rcases mem_memWrites hc with g | g
  · exact h.2.1 c g
  · have := StorePage.address_inside hq
    omega

/-- A sound store is one whose bytes, and whose write, are sound. -/
theorem StoreSound.of {s t : State} (h : StoreSound s) (h1 : t.store = s.store) (h2 : t.write = s.write ∨ t.write = none) :
    StoreSound t := by
  refine ⟨h1 ▸ h.1, h1 ▸ h.2.1, fun w hw => ?_⟩
  rcases h2 with e | e
  · exact h.2.2 w (e ▸ hw)
  · rw [e] at hw
    simp at hw

@[simp] theorem wordBytes_length (w : BitVec 16) : (wordBytes w).length = 2 := rfl

@[simp] theorem freshEntry_length (s : State) (k : Fin 9) : (freshEntry s k).length = 4 := by simp [freshEntry]

theorem heldEntry_length {h : List Byte} (hh : h.length = 64) (k : Fin 9) : (heldEntry h k).length = 4 := by
  have := k.isLt
  simp only [heldEntry, List.length_take, List.length_drop, hh]
  omega

theorem flatMap_length_const {α β : Type} {n : Nat} (l : List α) (f : α → List β) (h : ∀ x, (f x).length = n) :
    (l.flatMap f).length = l.length * n := by
  induction l with
  | nil => simp
  | cons x rest ih =>
    simp only [List.flatMap_cons, List.length_append, h, ih, List.length_cons]
    ring

/-- A header page has 64 bytes. -/
theorem makeHeader_length (v c : BitVec 16) {e : List Byte} (he : e.length = 36) : (makeHeader v c e).length = pageSize := by
  simp [makeHeader, he, signature, pageSize]

@[simp] theorem memReads_length (m : List Host.Cell) (a n : Nat) : (memReads m a n).length = n := by simp [memReads]

theorem newHeader_length (s : State) (p : StorePage) : (newHeader s p).length = pageSize := by
  have hh : (headerBytes s).length = 64 := by simp [headerBytes, pageBytes, pageSize]
  unfold newHeader
  split
  · exact makeHeader_length _ _ (by rw [flatMap_length_const _ _ (freshEntry_length s)]; simp)
  · refine makeHeader_length _ _ ?_
    rw [flatMap_length_const (n := 4)]
    · simp
    · intro k
      split
      · split
        · simp
        · exact heldEntry_length hh k
      · exact heldEntry_length hh k

/-- The same, with the write that is in progress. -/
theorem putPage_sound' {s : State} {q : StorePage} {bs : List Byte} (h : StoreSound s) (hq : q.inStore = true)
    (hb : bs.length = pageSize) : StoreSound (putPage q.address bs s) :=
  ⟨(putPage_sound h hq hb).1, (putPage_sound h hq hb).2, fun v hv => h.2.2 v hv⟩

theorem putWritten_sound {s : State} {w : StoreWrite} (h : StoreSound s) (hw : w.Sound) : StoreSound (putWritten w s) :=
  (putPage_sound' h hw.1 hw.2).of rfl (Or.inl rfl)

theorem leavePage_sound {s : State} {w : StoreWrite} (h : StoreSound s) (hw : w.Sound) : StoreSound (leavePage w s) := by
  have h1 : StoreSound { s with freeCtr := s.freeCtr + 1 } := h.of rfl (Or.inl rfl)
  have hb : ((List.range pageSize).map (Config.tornByte s.freeCtr)).length = pageSize := by simp
  have h2 := putPage_sound' h1 hw.1 hb
  have h3 := putWritten_sound h1 hw
  unfold leavePage
  generalize (List.range pageSize).map (Config.tornByte s.freeCtr) = bs at h2
  dsimp only
  split
  · exact h1
  · exact h3
  · exact h2.of rfl (Or.inl rfl)

theorem slotWriteEnds_sound {s : State} (n : SlotId) (bs : List Byte) (v : Bool) (h : StoreSound s) :
    StoreSound (slotWriteEnds n bs v s) := by
  unfold slotWriteEnds
  dsimp only
  split
  · exact h.of rfl (Or.inl rfl)
  · exact h.of rfl (Or.inl rfl)

theorem writeEnds_sound {s : State} (w : StoreWrite) (ok : Bool) (h : Memory.wf s.store = true ∧ ∀ c ∈ s.store, c.1 < storeSize) :
    StoreSound (writeEnds w ok s) := by
  have h1 : StoreSound { s with write := none, lastStoreResult := some (if ok then .done w.what else .failed w.page) } :=
    ⟨h.1, h.2, fun v hv => by simp at hv⟩
  have h2 : StoreSound (storeEvent { s with write := none, lastStoreResult := some (if ok then .done w.what else .failed w.page) }) :=
    h1.of (by simp [storeEvent]) (Or.inl (by simp [storeEvent]))
  unfold writeEnds
  dsimp only
  generalize storeEvent { s with write := none, lastStoreResult := some (if ok then .done w.what else .failed w.page) } = t at h2
  split
  · exact slotWriteEnds_sound _ _ _ h2
  · exact h2

theorem pageWritten_sound {s : State} (b : Page) (h : StoreSound s) : StoreSound (pageWritten b s) := by
  unfold pageWritten
  split
  · exact h
  · next w hw =>
    have hs := h.2.2 w hw
    have hp := putPage_sound (bs := b.toList) h hs.1 (by simp [pageSize])
    split
    · have hp := putWritten_sound h hs
      unfold pageVerified
      split
      · exact writeEnds_sound _ _ ⟨hp.1, hp.2.1⟩
      · refine ⟨hp.1, hp.2.1, fun v hv => ?_⟩
        simp only [Option.some.injEq] at hv
        rw [← hv]
        exact ⟨rfl, newHeader_length _ _⟩
    · exact writeEnds_sound _ _ hp

theorem writeTimesOut_sound {s : State} (h : StoreSound s) : StoreSound (writeTimesOut s) := by
  unfold writeTimesOut
  split
  · exact h
  · next w hw =>
    have := leavePage_sound h (h.2.2 w hw)
    exact writeEnds_sound _ _ ⟨this.1, this.2.1⟩

theorem abandonWrite_sound {s : State} (h : StoreSound s) : StoreSound (abandonWrite s) := by
  unfold abandonWrite
  split
  · exact h
  · next w hw => exact (leavePage_sound h (h.2.2 w hw)).of rfl (Or.inr rfl)

theorem beginWrite_sound {s : State} {p : StorePage} {bs : List Byte} (hp : p.inStore = true) (hb : bs.length = pageSize)
    (h : StoreSound s) : StoreSound (beginWrite p bs s) := by
  refine ⟨h.1, h.2.1, fun v hv => ?_⟩
  simp only [beginWrite_write, Option.some.injEq] at hv
  rw [← hv]
  exact ⟨hp, hb⟩

theorem handleWriteSlot_sound {s : State} (st : StationId) (n : Nat) (b : Page) (h : StoreSound s) :
    StoreSound (handleWriteSlot st n b s).2 := by
  have hb : b.toList.length = pageSize := by simp [pageSize]
  unfold handleWriteSlot
  dsimp only
  split
  · exact h
  · split
    · exact h
    · split
      · exact h
      · split
        · exact h
        · next k _ _ _ _ =>
          have h1 : StoreSound (beginWrite (.slot k) b.toList s) := beginWrite_sound rfl hb h
          split
          · exact h1.of rfl (Or.inl rfl)
          · exact h1

theorem handleWriteConfig_sound {s : State} (st : StationId) (k p : Nat) (b : Page) (h : StoreSound s) :
    StoreSound (handleWriteConfig st k p b s).2 := by
  have hb : b.toList.length = pageSize := by simp [pageSize]
  unfold handleWriteConfig
  split
  · exact h
  · split
    · exact h
    · split
      · next j _ hp =>
        split
        · exact h
        · exact beginWrite_sound (by simpa [StorePage.inStore] using hp) hb h
      · exact h

end Sys2Proof.Machine
end

