-- ==== Sys2Proof/Laws/Load.lean ====
section
/-! SUPPORT. What the loader, the clock and the resets carry over. `Carries a s` is `Keeps a s` without the configuration:
the invariants of the tables, the store with its write, and the queue. -/

namespace Sys2Proof.Machine

/-- From `a` to `s` the invariants of the tables are kept, and the store, its write and the queue are unchanged. -/
structure Carries (a s : State) : Prop where
  sections : SectionsSound a → SectionsSound s
  districts : DistrictsSound a → DistrictsSound s
  points : PointsSound a → PointsSound s
  throws : ThrowsSound a → ThrowsSound s
  heads : HeadsSound a → HeadsSound s
  position : PositionSound a → PositionSound s
  store : s.store = a.store
  write : s.write = a.write
  pending : s.pending = a.pending

theorem Carries.refl (a : State) : Carries a a := ⟨id, id, id, id, id, id, rfl, rfl, rfl⟩

theorem Carries.trans {a b c : State} (h : Carries a b) (g : Carries b c) : Carries a c :=
  ⟨g.sections ∘ h.sections, g.districts ∘ h.districts, g.points ∘ h.points, g.throws ∘ h.throws, g.heads ∘ h.heads,
    g.position ∘ h.position, g.store.trans h.store, g.write.trans h.write, g.pending.trans h.pending⟩

/-- What keeps the fixed part carries. -/
theorem Keeps.carries {a s : State} (h : Keeps a s) : Carries a s :=
  ⟨h.sections, h.districts, h.points, h.throws, h.heads, h.position, congrArg Fixed.store h.fixed,
    congrArg Fixed.write h.fixed, congrArg Fixed.pending h.fixed⟩

theorem Carries.frame {a s t : State} (h : Carries a s) (h1 : t.sections = s.sections)
    (h2 : t.districts = s.districts) (h3 : t.points = s.points) (h4 : t.throwQueue = s.throwQueue) (h5 : t.trains = s.trains)
    (h6 : t.tt.position = s.tt.position) (h7 : t.tt.state = s.tt.state) (h8 : t.store = s.store) (h9 : t.write = s.write)
    (h10 : t.pending = s.pending) : Carries a t := by
  refine ⟨?_, ?_, ?_, ?_, ?_, ?_, h8.trans h.store, h9.trans h.write, h10.trans h.pending⟩
  · unfold SectionsSound; rw [h1]; exact h.sections
  · unfold DistrictsSound; rw [h2]; exact h.districts
  · unfold PointsSound; rw [h3]; exact h.points
  · unfold ThrowsSound throwsInMotion; rw [h3, h4]; exact h.throws
  · unfold HeadsSound; rw [h5]; exact h.heads
  · unfold PositionSound; rw [h6, h7]; exact h.position

theorem forEach_carries {ι : Type} {a s : State} (l : List ι) (f : ι → State → State)
    (hf : ∀ i s, Carries a s → Carries a (f i s)) (h : Carries a s) : Carries a (forEach l f s) := forEach_induct hf l h

theorem ite_carries {a s t : State} {c : Prop} [Decidable c] (h : Carries a s) (g : Carries a t) :
    Carries a (if c then s else t) := by
  split
  · exact h
  · exact g

/-! ### Configuring the items (R175) -/

theorem setBoard_carries {a s : State} (b : BoardIdx) (f : BoardRec → BoardRec) (h : Carries a s) :
    Carries a (setBoard b f s) := h.frame rfl rfl rfl rfl rfl rfl rfl rfl rfl rfl

theorem setStation_carries {a s : State} (st : StationId) (f : StationRec → StationRec) (h : Carries a s) :
    Carries a (setStation st f s) := h.frame rfl rfl rfl rfl rfl rfl rfl rfl rfl rfl

theorem loadDepBoard_carries {a s : State} (l : Option (List Byte)) (b : DepBoardId) (h : Carries a s) :
    Carries a (loadDepBoard l b s) := h.frame rfl rfl rfl rfl rfl rfl rfl rfl rfl rfl

theorem loadDistrict_carries {a s : State} (l : Option (List Byte)) (d : DistrictId) (h : Carries a s) :
    Carries a (loadDistrict l d s) := by
  refine ⟨h.sections, fun g m => ?_, h.points, h.throws, h.heads, h.position, h.store, h.write, h.pending⟩
  have := h.districts g m
  simp only [loadDistrict, setDistrict_districts, tget_tupd]
  split
  · exact this
  · exact this

theorem loadSection_carries {a s : State} (l : Option (List Byte)) (n : SectionId) (h : Carries a s) :
    Carries a (loadSection l n s) := by
  refine ⟨fun g m => ?_, h.districts, h.points, h.throws, h.heads, h.position, h.store, h.write, h.pending⟩
  have := h.sections g m
  simp only [loadSection, tget_tupd]
  split
  · exact this
  · exact this

theorem loadPoint_carries {a s : State} (l : Option (List Byte)) (p : PointId) (h : Carries a s) :
    Carries a (loadPoint l p s) := by
  refine ⟨h.sections, h.districts, fun g m => ?_, fun g => ?_, h.heads, h.position, h.store, h.write, h.pending⟩
  · have := h.points g m
    simp only [loadPoint, tget_tupd]
    split
    · exact this
    · exact this
  · obtain ⟨h1, h2, h3, h4⟩ := h.throws g
    refine ⟨h1, h2, fun o ho => ?_, le_trans ?_ h4⟩
    · have := h3 o ho
      simp only [loadPoint, tget_tupd]
      split
      · exact this
      · exact this
    · exact idsWhere_tput_length_of_not _ _ _ _ (fun e => e)

theorem loadSignal_carries {a s : State} (l : Option (List Byte)) (sg : SignalId) (h : Carries a s) :
    Carries a (loadSignal l sg s) := h.frame rfl rfl rfl rfl rfl rfl rfl rfl rfl rfl

theorem loadButton_carries {a s : State} (l : Option (List Byte)) (b : ButtonId) (h : Carries a s) :
    Carries a (loadButton l b s) := h.frame rfl rfl rfl rfl rfl rfl rfl rfl rfl rfl

theorem configureTurntable_carries {a s : State} (c : Option TurntableCfg) (h : Carries a s) :
    Carries a (configureTurntable c s) := by
  refine ⟨h.sections, h.districts, h.points, h.throws, h.heads, fun g => ?_, h.store, h.write, h.pending⟩
  have := h.position g
  unfold PositionSound configureTurntable Turntable.configured at *
  simp only [setTt_tt]
  split
  · rfl
  · split
    · rfl
    · exact this

theorem configureBoards_carries {a s : State} (l : Option (List Byte)) (h : Carries a s) :
    Carries a (configureBoards l s) :=
  forEach_carries _ _ (fun b _ g => loadDepBoard_carries l b g) (forEach_carries _ _ (fun b _ g => setBoard_carries b _ g) h)

theorem configureDistricts_carries {a s : State} (l : Option (List Byte)) (h : Carries a s) :
    Carries a (configureDistricts l s) := forEach_carries _ _ (fun d _ g => loadDistrict_carries l d g) h

theorem configureSections_carries {a s : State} (l : Option (List Byte)) (h : Carries a s) :
    Carries a (configureSections l s) := forEach_carries _ _ (fun n _ g => loadSection_carries l n g) h

theorem configurePoints_carries {a s : State} (l : Option (List Byte)) (h : Carries a s) :
    Carries a (configurePoints l s) := forEach_carries _ _ (fun p _ g => loadPoint_carries l p g) h

theorem configureSignals_carries {a s : State} (l : Option (List Byte)) (h : Carries a s) :
    Carries a (configureSignals l s) := forEach_carries _ _ (fun p _ g => loadSignal_carries l p g) h

theorem configureDeck_carries {a s : State} (l : Option (List Byte)) (h : Carries a s) : Carries a (configureDeck l s) :=
  configureTurntable_carries _ h

theorem configureButtons_carries {a s : State} (l : Option (List Byte)) (h : Carries a s) :
    Carries a (configureButtons l s) := forEach_carries _ _ (fun b _ g => loadButton_carries l b g) h

theorem configureStations_carries {a s : State} (l : Option (List Byte)) (h : Carries a s) :
    Carries a (configureStations l s) := by
  have h1 := forEach_carries (List.finRange 15) (loadStation (isEnrolled s) l) (fun st _ g => setStation_carries st _ g) h
  unfold configureStations
  dsimp only
  generalize forEach (List.finRange 15) (loadStation (isEnrolled s) l) s = t at h1
  exact h1.frame rfl rfl rfl rfl rfl rfl rfl rfl rfl rfl

theorem configureTiming_carries {a s : State} (l : Option (List Byte)) (h : Carries a s) :
    Carries a (configureTiming l s) := h.frame rfl rfl rfl rfl rfl rfl rfl rfl rfl rfl

theorem configureItems_carries {a s : State} (failed : List (Fin 9)) (h : Carries a s) :
    Carries a (configureItems failed s) :=
  configureTiming_carries _ (configureStations_carries _ (configureButtons_carries _ (configureDeck_carries _
    (configureSignals_carries _ (configurePoints_carries _ (configureSections_carries _ (configureDistricts_carries _
      (configureBoards_carries _ h))))))))

theorem blocksRead_carries {a s : State} (failed : List (Fin 9)) (h : Carries a s) : Carries a (blocksRead failed s) := by
  have h1 := configureItems_carries failed h
  unfold blocksRead
  generalize configureItems failed s = t at h1
  have h2 : Carries a { t with loader := .slot 0 } := h1.frame rfl rfl rfl rfl rfl rfl rfl rfl rfl rfl
  exact h2.trans (startSending_keeps (Keeps.refl _)).carries

/-! ### The load (R175, R176) -/

theorem loadReady_carries {a s : State} (h : Carries a s) : Carries a (loadReady s) := by
  have h1 : Carries a { s with loadState := .ready, loader := .idle } := h.frame rfl rfl rfl rfl rfl rfl rfl rfl rfl rfl
  exact h1.trans (setFlag_keeps _ _
    (forEach_keeps _ _ (fun d _ g => energise_keeps d g) (Keeps.refl _))).carries

theorem loadFails_carries {a s : State} (h : Carries a s) : Carries a (loadFails s) := by
  have h1 : Carries a (configureTurntable none { s with
      loadState := .noImage, loader := .idle, boards := tmap BoardRec.withoutImage s.boards
      depBoards := tmap (fun b => { b with addr := none }) s.depBoards }) :=
    configureTurntable_carries _ (h.frame rfl rfl rfl rfl rfl rfl rfl rfl rfl rfl)
  exact h1.trans (setFlag_keeps _ _ (Keeps.refl _)).carries

theorem headerRead_carries {a s : State} (h : Carries a s) : Carries a (headerRead s) :=
  ite_carries (h.frame rfl rfl rfl rfl rfl rfl rfl rfl rfl rfl) (loadFails_carries h)

theorem blockTakenAs_carries {a s : State} (k : Fin 9) (f : List (Fin 9)) (x : Bool) (h : Carries a s) :
    Carries a (blockTakenAs k f x s) := by
  have h1 : Carries a (if x then { s with storeDamaged := true } else s) :=
    ite_carries (h.frame rfl rfl rfl rfl rfl rfl rfl rfl rfl rfl) h
  unfold blockTakenAs
  dsimp only
  generalize (if x then { s with storeDamaged := true } else s) = t at h1
  split
  · exact h1.frame rfl rfl rfl rfl rfl rfl rfl rfl rfl rfl
  · exact blocksRead_carries _ h1

theorem takeSlot_carries {a s : State} (n : SlotId) (bs : List Byte) (w : Bool) (h : Carries a s) :
    Carries a (takeSlot n bs w s) := by
  have hd : Carries a (damagedSlot n s) := h.frame rfl rfl rfl rfl rfl rfl rfl rfl rfl rfl
  have hs : ∀ x, Carries a (setSlot n x s) := fun x => h.frame rfl rfl rfl rfl rfl rfl rfl rfl rfl rfl
  exact ite_carries hd (ite_carries (hs _) (ite_carries hd (hs _)))

theorem slotTaken_carries {a s : State} (n : SlotId) (h : Carries a s) : Carries a (slotTaken n s) := by
  unfold slotTaken
  split
  · exact h.frame rfl rfl rfl rfl rfl rfl rfl rfl rfl rfl
  · exact loadReady_carries h

theorem slotRead_carries {a s : State} (n : SlotId) (h : Carries a s) : Carries a (slotRead n s) :=
  slotTaken_carries n (takeSlot_carries n _ _ h)

/-! ### The clock (log 1) -/

theorem idsWhere_tmap {α β : Type} {n : Nat} (t : Vector α n) (f : α → β) (p : β → Bool) :
    idsWhere (tmap f t) p = idsWhere t fun e => p (f e) := by
  simp [idsWhere_eq_filter]

theorem Timer.tick_isSome (t : Timer) : t.tick.isSome = t.isSome := by
  cases t <;> rfl

theorem Timer.tick_none {t : Timer} : t.tick = none ↔ t = none := by
  cases t <;> simp [Timer.tick]

theorem tickTimers_carries (s : State) : Carries s (tickTimers s) := by
  refine ⟨fun g n => ?_, fun g d => ?_, fun g p => ?_, fun g => ?_, id, id, rfl, rfl, rfl⟩
  · have := g n
    simp only [tickTimers, tget_tmap]
    intro e
    rw [Timer.tick_none]
    exact this e
  · have := g d
    simp only [tickTimers, tget_tmap]
    unfold DistrictRec.Sound boosterOn at *
    simp only [DistrictRec.tick, Timer.tick_none, Timer.tick_isSome]
    exact this
  · have := g p
    simp only [tickTimers, tget_tmap]
    unfold PointRec.Sound at *
    simp only [Timer.tick_none, Timer.tick_isSome]
    exact this
  · obtain ⟨h1, h2, h3, h4⟩ := g
    refine ⟨h1, h2, fun o ho => ?_, ?_⟩
    · have := h3 o ho
      simp only [tickTimers, tget_tmap]
      exact this
    · have : throwsInMotion (tickTimers s) = throwsInMotion s := by
        simp only [throwsInMotion, tickTimers, idsWhere_tmap]
      rw [this]
      exact h4

theorem passMillisecond_carries (s : State) : Carries s (passMillisecond s) :=
  ite_carries (Carries.refl s) (tickTimers_carries s)

end Sys2Proof.Machine
end

