-- ==== Sys2Proof/WellFormed.lean ====
section
/-! DEFINITION. When a command can stand in a frame: the variable parts of a request fit the 95 bytes that a request's
parameters may have (R162 and the Formats section of 10). Everything else that could be wrong with a request is a
check of the request's own rule, answered by a result code. -/

namespace Sys2Proof

/-- The most bytes that the parameters of a request may have (10, "Request and response envelope"). -/
def maxParameterBytes : Nat := 95

/-- The bytes that an optional text adds to a request. -/
def optionalTextBytes (t : Option (List Byte)) : Nat := (t.map List.length).getD 0

/-- The bytes that the text of a destination change adds to a request. -/
def destEditBytes : Option DestEdit → Nat
  | some (.own t) => t.length
  | some (.both t) => t.length
  | some .train => 0
  | none => 0

/-- The bytes of the parts of a command whose length varies; each signal named takes a byte, and so does each character. -/
def Instr.variableBytes : Instr → Nat
  | .chipReset _ => 0
  | .layoutReset _ _ => 0
  | .layoutResetCarriedOut => 0
  | .loadHeaderRead => 0
  | .loadConfigBlockRead => 0
  | .loadRouteSlotRead => 0
  | .storeAckTimeout => 0
  | .storePageWritten _ => 0
  | .idle _ => 0
  | .pollReplyTimeout => 0
  | .replyBytePauseTimeout => 0
  | .panelBadReply => 0
  | .stationRepollExpiry _ => 0
  | .unknownRequest _ _ _ => 0
  | .cancelRoute _ _ _ => 0
  | .emergencyRelease _ _ _ => 0
  | .readReservation _ _ _ => 0
  | .readRoutesFromSignal _ _ _ => 0
  | .retryRoute _ _ _ => 0
  | .setRoute _ _ _ _ => 0
  | .setThroughRoute _ _ signals => signals.length
  | .readDistrict _ _ _ => 0
  | .readPoint _ _ _ => 0
  | .readSection _ _ _ => 0
  | .readSignal _ _ _ => 0
  | .restoreDistrict _ _ _ => 0
  | .throwPoint _ _ _ _ => 0
  | .deleteTrain _ _ _ => 0
  | .editTrain _ _ _ edit => optionalTextBytes edit.dest
  | .enterTrainOffLayout _ _ _ _ _ dest => dest.length
  | .findTrain _ _ _ => 0
  | .interposeTrain _ _ _ _ _ _ dest _ => dest.length
  | .moveTrain _ _ _ _ _ => 0
  | .readTrain _ _ _ => 0
  | .readTurntable _ _ => 0
  | .turntableHome _ _ => 0
  | .turntableMove _ _ _ _ => 0
  | .turntableReset _ _ => 0
  | .withdrawMove _ _ _ => 0
  | .announce _ _ _ _ _ time dest => time.length + optionalTextBytes dest
  | .editAnnouncement _ _ _ edit => optionalTextBytes edit.time + destEditBytes edit.dest
  | .readBoard _ _ _ _ => 0
  | .readButtons _ _ => 0
  | .setOpenDay _ _ _ => 0
  | .withdrawAnnouncement _ _ _ => 0
  | .readEvents _ _ => 0
  | .readStatus _ _ => 0
  | .readStore _ _ _ _ => 0
  | .writeConfigBlock _ _ _ _ _ => 0
  | .writeRouteSlot _ _ _ _ => 0
  | .image _ _ _ => 0
  | .report _ _ => 0
  | .grantTimeout => 0
  | .lineTaken _ _ _ => 0
  | .fieldAnswerTimeout _ => 0
  | .fieldBadAnswer _ => 0
  | .boardRepollExpiry _ => 0
  | .clearDelayExpiry _ => 0
  | .faultFilterExpiry _ => 0
  | .retryTimerExpiry _ => 0
  | .confirmWindowExpiry _ => 0
  | .rechargeExpiry => 0
  | .throwTimerExpiry _ => 0
  | .overlapTimerExpiry _ => 0
  | .approachTimerExpiry _ => 0
  | .emergencyTimerExpiry _ => 0
  | .demonstrationHoldExpiry _ => 0
  | .waitTimerExpiry => 0
  | .stageTimerExpiry => 0
  | .lingerExpiry _ => 0
  | .lampTimerExpiry _ => 0
  | .cooldownExpiry _ => 0
  | .chipResetAsserted => 0
  | .badReport => 0

/-- The command fits the request's envelope. -/
def Instr.wellFormed (i : Instr) : Bool := decide (i.variableBytes ≤ maxParameterBytes)

end Sys2Proof
end

