-- ==== Sys2Proof/Laws/PerInstr.lean ====
section
/-! SUPPORT. The family EnvelopeFit: a command is well formed exactly when the variable parts of its request fit the 95
bytes that a request's parameters may have. One lemma for each command. -/

namespace Sys2Proof.Laws.EnvelopeFit

/-- The command is well formed exactly when its variable parts fit the envelope. -/
def Statement (i : Instr) : Prop := i.wellFormed = true ↔ i.variableBytes ≤ maxParameterBytes

/-- What each lemma below says. -/
theorem fits (i : Instr) : Statement i := decide_eq_true_iff

theorem chipReset : ∀ x0, Statement (.chipReset x0) := fun _ => fits _
theorem layoutReset : ∀ x0 x1, Statement (.layoutReset x0 x1) := fun _ _ => fits _
theorem layoutResetCarriedOut : Statement .layoutResetCarriedOut := fits _
theorem loadHeaderRead : Statement .loadHeaderRead := fits _
theorem loadConfigBlockRead : Statement .loadConfigBlockRead := fits _
theorem loadRouteSlotRead : Statement .loadRouteSlotRead := fits _
theorem storeAckTimeout : Statement .storeAckTimeout := fits _
theorem storePageWritten : ∀ x0, Statement (.storePageWritten x0) := fun _ => fits _
theorem idle : ∀ x0, Statement (.idle x0) := fun _ => fits _
theorem pollReplyTimeout : Statement .pollReplyTimeout := fits _
theorem replyBytePauseTimeout : Statement .replyBytePauseTimeout := fits _
theorem panelBadReply : Statement .panelBadReply := fits _
theorem stationRepollExpiry : ∀ x0, Statement (.stationRepollExpiry x0) := fun _ => fits _
theorem unknownRequest : ∀ x0 x1 x2, Statement (.unknownRequest x0 x1 x2) := fun _ _ _ => fits _
theorem cancelRoute : ∀ x0 x1 x2, Statement (.cancelRoute x0 x1 x2) := fun _ _ _ => fits _
theorem emergencyRelease : ∀ x0 x1 x2, Statement (.emergencyRelease x0 x1 x2) := fun _ _ _ => fits _
theorem readReservation : ∀ x0 x1 x2, Statement (.readReservation x0 x1 x2) := fun _ _ _ => fits _
theorem readRoutesFromSignal : ∀ x0 x1 x2, Statement (.readRoutesFromSignal x0 x1 x2) := fun _ _ _ => fits _
theorem retryRoute : ∀ x0 x1 x2, Statement (.retryRoute x0 x1 x2) := fun _ _ _ => fits _
theorem setRoute : ∀ x0 x1 x2 x3, Statement (.setRoute x0 x1 x2 x3) := fun _ _ _ _ => fits _
theorem setThroughRoute : ∀ x0 x1 x2, Statement (.setThroughRoute x0 x1 x2) := fun _ _ _ => fits _
theorem readDistrict : ∀ x0 x1 x2, Statement (.readDistrict x0 x1 x2) := fun _ _ _ => fits _
theorem readPoint : ∀ x0 x1 x2, Statement (.readPoint x0 x1 x2) := fun _ _ _ => fits _
theorem readSection : ∀ x0 x1 x2, Statement (.readSection x0 x1 x2) := fun _ _ _ => fits _
theorem readSignal : ∀ x0 x1 x2, Statement (.readSignal x0 x1 x2) := fun _ _ _ => fits _
theorem restoreDistrict : ∀ x0 x1 x2, Statement (.restoreDistrict x0 x1 x2) := fun _ _ _ => fits _
theorem throwPoint : ∀ x0 x1 x2 x3, Statement (.throwPoint x0 x1 x2 x3) := fun _ _ _ _ => fits _
theorem deleteTrain : ∀ x0 x1 x2, Statement (.deleteTrain x0 x1 x2) := fun _ _ _ => fits _
theorem editTrain : ∀ x0 x1 x2 x3, Statement (.editTrain x0 x1 x2 x3) := fun _ _ _ _ => fits _
theorem enterTrainOffLayout : ∀ x0 x1 x2 x3 x4 x5, Statement (.enterTrainOffLayout x0 x1 x2 x3 x4 x5) := fun _ _ _ _ _ _ => fits _
theorem findTrain : ∀ x0 x1 x2, Statement (.findTrain x0 x1 x2) := fun _ _ _ => fits _
theorem interposeTrain : ∀ x0 x1 x2 x3 x4 x5 x6 x7, Statement (.interposeTrain x0 x1 x2 x3 x4 x5 x6 x7) := fun _ _ _ _ _ _ _ _ => fits _
theorem moveTrain : ∀ x0 x1 x2 x3 x4, Statement (.moveTrain x0 x1 x2 x3 x4) := fun _ _ _ _ _ => fits _
theorem readTrain : ∀ x0 x1 x2, Statement (.readTrain x0 x1 x2) := fun _ _ _ => fits _
theorem readTurntable : ∀ x0 x1, Statement (.readTurntable x0 x1) := fun _ _ => fits _
theorem turntableHome : ∀ x0 x1, Statement (.turntableHome x0 x1) := fun _ _ => fits _
theorem turntableMove : ∀ x0 x1 x2 x3, Statement (.turntableMove x0 x1 x2 x3) := fun _ _ _ _ => fits _
theorem turntableReset : ∀ x0 x1, Statement (.turntableReset x0 x1) := fun _ _ => fits _
theorem withdrawMove : ∀ x0 x1 x2, Statement (.withdrawMove x0 x1 x2) := fun _ _ _ => fits _
theorem announce : ∀ x0 x1 x2 x3 x4 x5 x6, Statement (.announce x0 x1 x2 x3 x4 x5 x6) := fun _ _ _ _ _ _ _ => fits _
theorem editAnnouncement : ∀ x0 x1 x2 x3, Statement (.editAnnouncement x0 x1 x2 x3) := fun _ _ _ _ => fits _
theorem readBoard : ∀ x0 x1 x2 x3, Statement (.readBoard x0 x1 x2 x3) := fun _ _ _ _ => fits _
theorem readButtons : ∀ x0 x1, Statement (.readButtons x0 x1) := fun _ _ => fits _
theorem setOpenDay : ∀ x0 x1 x2, Statement (.setOpenDay x0 x1 x2) := fun _ _ _ => fits _
theorem withdrawAnnouncement : ∀ x0 x1 x2, Statement (.withdrawAnnouncement x0 x1 x2) := fun _ _ _ => fits _
theorem readEvents : ∀ x0 x1, Statement (.readEvents x0 x1) := fun _ _ => fits _
theorem readStatus : ∀ x0 x1, Statement (.readStatus x0 x1) := fun _ _ => fits _
theorem readStore : ∀ x0 x1 x2 x3, Statement (.readStore x0 x1 x2 x3) := fun _ _ _ _ => fits _
theorem writeConfigBlock : ∀ x0 x1 x2 x3 x4, Statement (.writeConfigBlock x0 x1 x2 x3 x4) := fun _ _ _ _ _ => fits _
theorem writeRouteSlot : ∀ x0 x1 x2 x3, Statement (.writeRouteSlot x0 x1 x2 x3) := fun _ _ _ _ => fits _
theorem image : ∀ x0 x1 x2, Statement (.image x0 x1 x2) := fun _ _ _ => fits _
theorem report : ∀ x0 x1, Statement (.report x0 x1) := fun _ _ => fits _
theorem grantTimeout : Statement .grantTimeout := fits _
theorem lineTaken : ∀ x0 x1 x2, Statement (.lineTaken x0 x1 x2) := fun _ _ _ => fits _
theorem fieldAnswerTimeout : ∀ x0, Statement (.fieldAnswerTimeout x0) := fun _ => fits _
theorem fieldBadAnswer : ∀ x0, Statement (.fieldBadAnswer x0) := fun _ => fits _
theorem boardRepollExpiry : ∀ x0, Statement (.boardRepollExpiry x0) := fun _ => fits _
theorem clearDelayExpiry : ∀ x0, Statement (.clearDelayExpiry x0) := fun _ => fits _
theorem faultFilterExpiry : ∀ x0, Statement (.faultFilterExpiry x0) := fun _ => fits _
theorem retryTimerExpiry : ∀ x0, Statement (.retryTimerExpiry x0) := fun _ => fits _
theorem confirmWindowExpiry : ∀ x0, Statement (.confirmWindowExpiry x0) := fun _ => fits _
theorem rechargeExpiry : Statement .rechargeExpiry := fits _
theorem throwTimerExpiry : ∀ x0, Statement (.throwTimerExpiry x0) := fun _ => fits _
theorem overlapTimerExpiry : ∀ x0, Statement (.overlapTimerExpiry x0) := fun _ => fits _
theorem approachTimerExpiry : ∀ x0, Statement (.approachTimerExpiry x0) := fun _ => fits _
theorem emergencyTimerExpiry : ∀ x0, Statement (.emergencyTimerExpiry x0) := fun _ => fits _
theorem demonstrationHoldExpiry : ∀ x0, Statement (.demonstrationHoldExpiry x0) := fun _ => fits _
theorem waitTimerExpiry : Statement .waitTimerExpiry := fits _
theorem stageTimerExpiry : Statement .stageTimerExpiry := fits _
theorem lingerExpiry : ∀ x0, Statement (.lingerExpiry x0) := fun _ => fits _
theorem lampTimerExpiry : ∀ x0, Statement (.lampTimerExpiry x0) := fun _ => fits _
theorem cooldownExpiry : ∀ x0, Statement (.cooldownExpiry x0) := fun _ => fits _
theorem chipResetAsserted : Statement .chipResetAsserted := fits _
theorem badReport : Statement .badReport := fits _

end Sys2Proof.Laws.EnvelopeFit
end

