-- ==== Sys2Proof/Laws/Resets.lean ====
section
/-! SUPPORT. The invariants of the tables after the resets (R10, R11, R41, R107, R131, R173, R174). -/

namespace Sys2Proof.Machine

/-- The tables of the track and of the trains stand at their reset values. -/
structure TablesReset (s : State) : Prop where
  sections : s.sections = tall 256 .reset
  districts : s.districts = tall 8 .reset
  points : s.points = tall 128 .reset
  throwQueue : s.throwQueue = []
  trains : s.trains = tall 48 none

theorem TablesReset.sectionsSound {s : State} (h : TablesReset s) : SectionsSound s := by
  intro n
  rw [h.sections, tget_tall]
  intro e
  simp [SectionRec.reset] at e

theorem TablesReset.districtsSound {s : State} (h : TablesReset s) : DistrictsSound s := by
  intro d
  rw [h.districts, tget_tall]
  simp [DistrictRec.Sound, DistrictRec.reset, DistrictState.allows]

theorem TablesReset.pointsSound {s : State} (h : TablesReset s) : PointsSound s := by
  intro p
  rw [h.points, tget_tall]
  simp [PointRec.Sound, PointRec.reset]

theorem TablesReset.throwsSound {s : State} (h : TablesReset s) : ThrowsSound s := by
  refine ⟨by rw [h.throwQueue]; simp, by rw [h.throwQueue]; simp, by rw [h.throwQueue]; simp, ?_⟩
  unfold throwsInMotion
  rw [h.points, idsWhere_eq_filter]
  have : (PointState.unknown == PointState.moving) = false := rfl
  simp [PointRec.reset, this]

theorem TablesReset.headsSound {s : State} (h : TablesReset s) : HeadsSound s := by
  intro t u v w n ht
  rw [h.trains, tget_tall] at ht
  simp at ht

/-- The tables of the layout's routes stand at their reset values, and the load is about to begin. -/
structure RoutesReset (s : State) : Prop extends TablesReset s where
  signals : s.signals = tall 128 .reset
  buttons : s.buttons = tall 8 .reset
  slots : s.slots = tall 512 .reset
  reservations : s.reservations = tall 64 none
  deck : s.tt.deckLock = .free ∧ s.tt.queue = [] ∧ s.tt.current = none
  rest : s.tt.phase = none ∧ s.tt.stageTimer = none ∧ s.tt.stepsCounted = 0
  load : s.loadState = .loading ∧ s.imageVersion = none ∧ s.write = none
  lists : s.announcements = tall 32 none ∧ ∀ b, (tget s.depBoards b).list = []
  lines : ∀ b p, (tget (tget s.depBoards b).lines p).text = blankLine
  images : ∀ a, (tget s.boards a).image = { OutputImage.safe with ttBolt := (tget s.boards a).image.ttBolt }

theorem RoutesReset.getRes {s : State} (h : RoutesReset s) (r : ResId) : getRes s r = none := by
  unfold Machine.getRes
  rw [h.reservations, tget_tall]

theorem RoutesReset.slotDef {s : State} (h : RoutesReset s) (n : SlotId) : slotDef s n = none := by
  unfold Machine.slotDef
  rw [h.slots, tget_tall]
  rfl

theorem RoutesReset.loadSound {s : State} (h : RoutesReset s) : LoadSound s :=
  ⟨fun _ => h.load.1, fun _ => h.load.2.2, fun _ => h.load.2.1, fun _ n => by rw [h.slots, tget_tall]; rfl⟩

theorem RoutesReset.routesSound {s : State} (h : RoutesReset s) : RoutesSound s := by
  refine ⟨fun r v e => ?_, fun x r e => ?_, fun x e => ?_, fun _ r => h.getRes r, fun r v e => ?_, fun w n e => ?_⟩
  · rw [h.getRes] at e; cases e
  · rw [h.signals, tget_tall] at e; cases e
  · rw [h.signals, tget_tall] at e; exact absurd rfl e
  · rw [h.getRes] at e; cases e
  · rw [h.load.2.2] at e; cases e

theorem RoutesReset.holdsSound {s : State} (h : RoutesReset s) : HoldsSound s := by
  refine ⟨fun n l e => ?_, fun p r e => ?_, fun p r e => ?_, fun o e => ?_, fun r e => ?_, fun m e => ?_⟩
  · rw [h.sections, tget_tall] at e; cases e
  · rw [h.points, tget_tall] at e; cases e
  · rw [h.points, tget_tall] at e; cases e
  · rw [h.throwQueue] at e; cases e
  · rw [h.deck.1] at e; cases e
  · rw [h.deck.2.1, h.deck.2.2] at e
    rcases e with e | e <;> cases e

theorem RoutesReset.resDef {s : State} (h : RoutesReset s) (r : ResId) : resDef s r = none := by
  unfold Machine.resDef
  rw [h.getRes]
  rfl

theorem RoutesReset.locksSound {s : State} (h : RoutesReset s) : LocksSound s := by
  refine ⟨fun r v d k e x => ?_, fun r v d k e x => ?_, fun n l v d _ x => ?_, fun p r v d _ x => ?_, fun p x => ?_,
    fun p x => ?_, fun o x => ?_⟩
  iterate 4
    rw [h.resDef] at x
    cases x
  · rw [h.points, tget_tall] at x; cases x
  · rw [h.points, tget_tall] at x; cases x
  · rw [h.throwQueue] at x; cases x

theorem RoutesReset.slotsSound {s : State} (h : RoutesReset s) : SlotsSound s := by
  refine ⟨fun n d e => ?_, fun n m d c e => ?_, fun w n e => ?_⟩
  · rw [h.slotDef] at e; cases e
  · rw [h.slotDef] at e; cases e
  · rw [h.load.2.2] at e; cases e

theorem RoutesReset.channelsDistinct {s : State} (h : RoutesReset s)
    (hd : ∀ b d a, (tget s.depBoards b).addr = some a → (tget s.depBoards d).addr = some a → b = d) :
    ChannelsDistinct s := by
  refine ⟨fun d e c g => ?_, fun n m c d g => ?_, fun p q c d g => ?_, fun x y c d g => ?_, fun b d c e g => ?_, hd⟩
  · rw [h.districts, tget_tall] at g; cases g
  · rw [h.sections, tget_tall] at g; cases g
  · rw [h.points, tget_tall] at g; cases g
  · rw [h.signals, tget_tall] at g; cases g
  · rw [h.buttons, tget_tall] at g; cases g

theorem RoutesReset.listsSound {s : State} (h : RoutesReset s) : ListsSound s := by
  intro b
  rw [h.lists.2]
  refine ⟨List.nodup_nil, Nat.zero_le _, fun n => ⟨fun e => absurd e List.not_mem_nil, fun ⟨a, e, _⟩ => ?_⟩⟩
  rw [h.lists.1, tget_tall] at e
  cases e

theorem RoutesReset.aspectsSound {s : State} (h : RoutesReset s) : AspectsSound s := by
  intro x
  have e : (tget s.signals x).aspect = deriveAspect s x := by
    rw [deriveAspect_absent (by rw [h.signals, tget_tall]; rfl), h.signals, tget_tall]
    rfl
  rw [e]
  exact deriveAspect_shows s x

theorem RoutesReset.reservationsSound {s : State} (h : RoutesReset s) : ReservationsSound s := fun r v d e => by
  rw [h.resDef] at e
  cases e

theorem RoutesReset.turntableSound {s : State} (h : RoutesReset s) (hr : s.tt.state = .unknown ∨ s.tt.state = .idle)
    (hc : s.tt.cfg = none → s.tt.state = .unknown) : TurntableSound s := by
  obtain ⟨d1, d2, d3⟩ := h.deck
  obtain ⟨r1, r2, r3⟩ := h.rest
  have runs : ¬ s.tt.runs := by rcases hr with e | e <;> simp [Turntable.runs, e]
  have homing : s.tt.state ≠ .homing := by rcases hr with e | e <;> simp [e]
  refine ⟨?_, ?_, ?_, fun c => ⟨hc c, d1, d2⟩, fun _ => ⟨runs, homing, d2⟩⟩
  · simp [RunningLaw, d3, r1, r2, r3, runs, homing]
  · simp [DeckLockLaw, d1, d3, DeckLock.holder]
  · simp [MoveQueueLaw, d2]

theorem RoutesReset.announcementsSound {s : State} (h : RoutesReset s) : AnnouncementsSound s := by
  refine ⟨fun n a e => ?_, fun n a e => ?_, fun n a t e => ?_, fun r v t e => ?_, fun b p => ?_⟩
  · rw [h.lists.1, tget_tall] at e; cases e
  · rw [h.lists.1, tget_tall] at e; cases e
  · rw [h.lists.1, tget_tall] at e; cases e
  · rw [h.getRes] at e; cases e
  · rw [h.lines]
    unfold lineContent
    rw [h.lists.2]
    rfl

theorem RoutesReset.demosSound {s : State} (h : RoutesReset s) : DemosSound s := by
  unfold DemosSound demosLive
  rw [List.filter_eq_nil_iff.2 fun r _ => by rw [h.getRes]; simp]
  exact Nat.zero_le _

theorem RoutesReset.outputsSound {s : State} (h : RoutesReset s) (hr : s.tt.state = .unknown ∨ s.tt.state = .idle) :
    OutputsSound s := by
  refine ⟨fun x g e => ?_, fun d g e => ?_, fun p g e => ?_, fun b g e => ?_, fun g _ => ?_⟩
  · rw [h.signals, tget_tall] at e; cases e
  · rw [h.districts, tget_tall] at e; cases e
  · rw [h.points, tget_tall] at e; cases e
  · rw [h.buttons, tget_tall] at e; cases e
  · rw [h.images, h.rest.1]
    rcases hr with e | e <;> simp [e, OutputImage.safe]

theorem RoutesReset.unreadSound {s : State} (h : RoutesReset s) : UnreadSound s := by
  refine ⟨fun _ => ⟨fun n => ?_, fun d => ?_, fun p => ?_, fun x => ?_, fun b => ?_⟩, fun _ => h.images⟩
  · rw [h.sections, tget_tall]
  · rw [h.districts, tget_tall]
  · rw [h.points, tget_tall]
  · rw [h.signals, tget_tall]
  · rw [h.buttons, tget_tall]

/-- Every invariant holds on reset tables with a sound store, a sound turntable record at rest and DISPLAY boards named
once. -/
theorem RoutesReset.allSound {s : State} (h : RoutesReset s) (hp : PositionSound s) (hs : StoreSound s)
    (hd : ∀ b d a, (tget s.depBoards b).addr = some a → (tget s.depBoards d).addr = some a → b = d)
    (hr : s.tt.state = .unknown ∨ s.tt.state = .idle) (hc : s.tt.cfg = none → s.tt.state = .unknown) : AllSound s :=
  ⟨h.sectionsSound, h.districtsSound, h.pointsSound, h.throwsSound, h.headsSound, hp, hs, h.loadSound, h.routesSound,
    h.holdsSound, h.slotsSound, h.channelsDistinct hd, h.listsSound, h.locksSound, h.aspectsSound, h.reservationsSound,
    h.turntableSound hr hc, h.announcementsSound, h.demosSound, h.outputsSound hr, h.unreadSound⟩

/-- The tables right after a chip reset. -/
theorem afterChipReset_tables (x : BitVec 2) (m : List Host.Cell) (l : List Nat) (k : Nat) (q : List Instr) :
    RoutesReset (State.afterChipReset x m l k q) :=
  ⟨⟨rfl, rfl, rfl, rfl, rfl⟩, rfl, rfl, rfl, rfl, ⟨rfl, rfl, rfl⟩, ⟨rfl, rfl, rfl⟩, ⟨rfl, rfl, rfl⟩,
    ⟨rfl, fun b => by rw [show (State.afterChipReset x m l k q).depBoards = tall 4 .reset from rfl, tget_tall]; rfl⟩,
    fun b p => by
      rw [show (State.afterChipReset x m l k q).depBoards = tall 4 .reset from rfl, tget_tall]
      exact congrArg BoardLine.text (tget_tall _ p),
    fun a => by rw [show (State.afterChipReset x m l k q).boards = tall 32 .reset from rfl, tget_tall]; rfl⟩

/-- Every invariant holds right after a chip reset over a sound store. -/
theorem afterChipReset_allSound (x : BitVec 2) {m : List Host.Cell} (l : List Nat) (k : Nat) (q : List Instr)
    (hm : Memory.wf m = true) (hr : ∀ c ∈ m, c.1 < storeSize) : AllSound (State.afterChipReset x m l k q) :=
  (afterChipReset_tables x m l k q).allSound rfl ⟨hm, hr, fun w hw => by simp [State.afterChipReset] at hw⟩
    (fun b d a e => by
      rw [show (State.afterChipReset x m l k q).depBoards = tall 4 .reset from rfl, tget_tall] at e
      cases e) (Or.inl rfl) fun _ => rfl

theorem Turntable.layoutReset_position {t : Turntable} (h : t.position.isSome = t.state.positioned) :
    t.layoutReset.position.isSome = t.layoutReset.state.positioned := by
  unfold Turntable.layoutReset
  dsimp only
  split
  · exact h
  · rfl

theorem leavePage_tt (w : StoreWrite) (s : State) : (leavePage w s).tt = s.tt := by
  unfold leavePage
  generalize (List.range pageSize).map (Config.tornByte s.freeCtr) = bs
  dsimp only
  split
  · rfl
  · rfl
  · rfl

theorem abandonWrite_tt (s : State) : (abandonWrite s).tt = s.tt := by
  unfold abandonWrite
  split
  · rfl
  · exact leavePage_tt _ s

theorem leavePage_depBoards (w : StoreWrite) (s : State) : (leavePage w s).depBoards = s.depBoards := by
  unfold leavePage
  generalize (List.range pageSize).map (Config.tornByte s.freeCtr) = bs
  dsimp only
  split
  · rfl
  · rfl
  · rfl

theorem abandonWrite_depBoards (s : State) : (abandonWrite s).depBoards = s.depBoards := by
  unfold abandonWrite
  split
  · rfl
  · exact leavePage_depBoards _ s

theorem resetStations_eq (s : State) : resetStations s =
    { s with stations := (resetStations s).stations, stationsRead := false } := by
  have key : ∀ (l : List StationId) (g : StationId → StationRec → StationRec) (t : State),
      forEach l (fun st => setStation st (g st)) t
        = { t with stations := (forEach l (fun st => setStation st (g st)) t).stations } := by
    intro l g
    induction l with
    | nil => intro t; rfl
    | cons st rest ih =>
      intro t
      rw [forEach_cons, ih]
      rfl
  unfold resetStations
  dsimp only
  rw [key]

/-- The next POLL touches the panel link's record and the station table alone. -/
theorem nextPoll_eq (s : State) :
    nextPoll s = { s with panelLink := (nextPoll s).panelLink, stations := (nextPoll s).stations } := by
  unfold nextPoll
  split
  · rfl
  · split
    · rfl
    · split <;> rfl

theorem abandonWrite_write (s : State) : (abandonWrite s).write = none := by
  unfold abandonWrite
  split
  · assumption
  · rfl

/-- Every invariant is kept by the layout reset. -/
theorem layoutResetDone_allSound {s : State} (hp : PositionSound s) (hs : StoreSound s) (hc : ChannelsDistinct s)
    (hu : s.tt.cfg = none → s.tt.state = .unknown) : AllSound (layoutResetDone s) := by
  have ha := abandonWrite_sound hs
  have hw := abandonWrite_write s
  have ht := abandonWrite_tt s
  have hc' := hc.depBoards
  rw [← abandonWrite_depBoards s] at hc'
  unfold layoutResetDone
  generalize abandonWrite s = u at ha hw ht hc'
  rw [resetStations_eq, nextPoll_eq]
  generalize (resetStations (resetPublic (resetTrack u))).stations = z
  have h : ∀ v : State, v.sections = tall 256 .reset → v.districts = tall 8 .reset → v.points = tall 128 .reset →
      v.throwQueue = [] → v.signals = tall 128 .reset → v.buttons = tall 8 .reset → v.tt = u.tt → v.store = u.store →
      v.write = none → v.announcements = tall 32 none → (∀ b, (tget v.depBoards b).list = []) →
      (∀ b d a, (tget v.depBoards b).addr = some a → (tget v.depBoards d).addr = some a → b = d) →
      (∀ b p, (tget (tget v.depBoards b).lines p).text = blankLine) → AllSound { resetRest v with
        panelLink := (nextPoll (resetRest v)).panelLink, stations := (nextPoll (resetRest v)).stations } := by
    intro v h1 h2 h3 h4 h5 h6 h7 h8 h9 h10 h11 h12 h13
    have hr : ∀ t : State, t.slots = tall 512 .reset → t.reservations = tall 64 none → t.trains = tall 48 none →
        t.tt = v.tt.layoutReset → t.loadState = .loading → t.imageVersion = none → t.store = v.store → t.write = v.write →
        t.sections = v.sections → t.districts = v.districts → t.points = v.points → t.throwQueue = v.throwQueue →
        t.signals = v.signals → t.buttons = v.buttons → t.announcements = v.announcements → t.depBoards = v.depBoards →
        t.boards = tmap (fun b => { b with image := b.image.layoutReset }) v.boards → AllSound t := by
      intro t a1 a2 a3 a4 a5 a6 a7 a8 a9 b1 b2 b3 b4 b5 b6 b7 b8
      have hdeck : t.tt.deckLock = .free ∧ t.tt.queue = [] ∧ t.tt.current = none := by
        rw [a4]
        unfold Turntable.layoutReset
        dsimp only
        split <;> exact ⟨rfl, rfl, rfl⟩
      have hrest : t.tt.phase = none ∧ t.tt.stageTimer = none ∧ t.tt.stepsCounted = 0 := by
        rw [a4]
        unfold Turntable.layoutReset
        dsimp only
        split <;> exact ⟨rfl, rfl, rfl⟩
      have hstate : t.tt.state = .unknown ∨ t.tt.state = .idle := by
        rw [a4]
        unfold Turntable.layoutReset
        dsimp only
        split
        · rename_i e
          exact Or.inr e
        · exact Or.inl rfl
      have hcfg : t.tt.cfg = none → t.tt.state = .unknown := by
        rw [a4, h7, ht]
        unfold Turntable.layoutReset
        dsimp only
        split
        · exact hu
        · exact fun _ => rfl
      refine RoutesReset.allSound ⟨⟨a9.trans h1, b1.trans h2, b2.trans h3, b3.trans h4, a3⟩, b4.trans h5, b5.trans h6, a1, a2,
        hdeck, hrest, ⟨a5, a6, a8.trans h9⟩, ⟨b6.trans h10, fun b => by rw [b7]; exact h11 b⟩, by rw [b7]; exact h13,
        fun a => by rw [b8, tget_tmap]; rfl⟩ ?_ ?_ (by rw [b7]; exact h12) hstate hcfg
      · unfold PositionSound
        rw [a4, h7, ht]
        exact Turntable.layoutReset_position hp
      · exact ha.of (a7.trans h8) (Or.inr (a8.trans h9))
    exact hr _ rfl rfl rfl rfl rfl rfl rfl rfl rfl rfl rfl rfl rfl rfl rfl rfl rfl
  have hdep : ∀ z : Vector StationRec 15, ({ resetPublic (resetTrack u) with stations := z, stationsRead := false } : State).depBoards
      = tmap (fun b => { DepBoard.reset with addr := b.addr }) u.depBoards := fun _ => rfl
  refine h _ rfl rfl rfl rfl rfl rfl rfl rfl hw rfl (fun b => ?_) (fun b d a => ?_) fun b p => ?_
  · rw [hdep, tget_tmap]
    rfl
  · rw [hdep, tget_tmap, tget_tmap]
    exact hc' b d a
  · rw [hdep, tget_tmap]
    exact congrArg BoardLine.text (tget_tall _ p)

end Sys2Proof.Machine
end

