-- ==== Sys2Proof/Laws/SoundTest.lean ====
section
/-! SUPPORT. The invariants as a test that the kernel can run on a state written out: `soundTest s` is a Bool, and a state
that passes it is sound. -/

namespace Sys2Proof.Machine

/-- A test of what an optional value holds. -/
def ifSome {α : Type} (o : Option α) (p : α → Bool) : Bool :=
  match o with
  | none => true
  | some a => p a

theorem ifSome_of {α : Type} {o : Option α} {p : α → Bool} (h : ifSome o p = true) {a : α} (e : o = some a) : p a = true := by
  rw [e] at h
  exact h

/-- No entry of a table satisfies a test. -/
def nowhere {α : Type} {n : Nat} (t : Vector α n) (p : α → Bool) : Bool := (idsWhere t p).isEmpty

theorem nowhere_of {α : Type} {n : Nat} {t : Vector α n} {p : α → Bool} (h : nowhere t p = true) (i : Fin n) :
    p (tget t i) = false := by
  by_contra e
  have m : i ∈ idsWhere t p := (mem_idsWhere t p i).2 (by simpa using e)
  rw [List.isEmpty_iff.1 h] at m
  exact absurd m List.not_mem_nil

/-- Every entry that satisfies a test has its index satisfy another. -/
def wherever {α : Type} {n : Nat} (t : Vector α n) (p : α → Bool) (q : Fin n → Bool) : Bool := (idsWhere t p).all q

theorem wherever_of {α : Type} {n : Nat} {t : Vector α n} {p : α → Bool} {q : Fin n → Bool} (h : wherever t p q = true)
    (i : Fin n) (e : p (tget t i) = true) : q i = true :=
  List.all_eq_true.1 h i ((mem_idsWhere t p i).2 e)

/-- Any two entries that satisfy a test and agree on a value are one. -/
def oneEach {α β : Type} [DecidableEq β] {n : Nat} (t : Vector α n) (f : α → Option β) : Bool :=
  wherever t (fun e => (f e).isSome) fun i => wherever t (fun e => (f e).isSome) fun j =>
    decide (f (tget t i) = f (tget t j) → i = j)

theorem oneEach_of {α β : Type} [DecidableEq β] {n : Nat} {t : Vector α n} {f : α → Option β} (h : oneEach t f = true)
    {i j : Fin n} {x : β} (a : f (tget t i) = some x) (b : f (tget t j) = some x) : i = j := by
  have hi := wherever_of h i (by rw [a]; rfl)
  have hj := wherever_of hi j (by rw [b]; rfl)
  exact of_decide_eq_true hj (a.trans b.symm)

def districtTest (e : DistrictRec) : Bool :=
  (decide (e.state = .tripped) || (e.retryTimer.isNone && e.confirmWindow.isNone))
    && decide (e.cause.isSome = decide (e.state = .cut)) && (boosterOn e || e.faultFilter.isNone)
    && match e.state with
      | .tripped => decide (e.retryCount < 3)
      | .lockedOut => decide (e.retryCount = 3)
      | _ => decide (e.retryCount = 0)

theorem districtTest_of {e : DistrictRec} (h : districtTest e = true) : e.Sound := by
  unfold districtTest at h
  simp only [Bool.and_eq_true, Bool.or_eq_true, decide_eq_true_eq, Option.isNone_iff_eq_none] at h
  obtain ⟨⟨⟨h1, h2⟩, h3⟩, h4⟩ := h
  refine ⟨fun n => h1.resolve_left n, ?_, fun n => h3.resolve_left (by simp [n]), ?_⟩
  · rw [h2]
    simp
  · revert h4
    cases e.state <;> simp [DistrictState.allows]

def pointTest (e : PointRec) : Bool :=
  if e.state = .moving then e.target.isSome && e.throwTimer.isSome
  else decide (e.target = none ∧ e.throwTimer = none ∧ e.throwOwner = none ∧ e.releaseAtEnd = false ∧ e.lock ≠ .disowned)

theorem pointTest_of {e : PointRec} (h : pointTest e = true) : e.Sound := by
  unfold pointTest at h
  unfold PointRec.Sound
  split at h
  · rename_i m
    rw [if_pos m]
    simpa using h
  · rename_i m
    rw [if_neg m]
    exact of_decide_eq_true h

def trackTest (s : State) : Bool :=
  nowhere s.sections (fun e => decide (e.occ = .clear) && e.clearTimer.isSome) && nowhere s.districts (fun e => !districtTest e)
    && nowhere s.points (fun e => !pointTest e)
    && decide (s.throwQueue.length ≤ throwQueueSize ∧ (s.throwQueue.map (·.point)).Nodup
      ∧ (∀ o ∈ s.throwQueue, (tget s.points o.point).state ≠ .moving) ∧ throwsInMotion s ≤ 2)
    && oneEach s.trains (fun t => t.bind (·.head)) && decide (s.tt.position.isSome = s.tt.state.positioned)

theorem trackTest_of {s : State} (h : trackTest s = true) :
    SectionsSound s ∧ DistrictsSound s ∧ PointsSound s ∧ ThrowsSound s ∧ HeadsSound s ∧ PositionSound s := by
  unfold trackTest at h
  simp only [Bool.and_eq_true] at h
  obtain ⟨⟨⟨⟨⟨h1, h2⟩, h3⟩, h4⟩, h5⟩, h6⟩ := h
  have h4 := of_decide_eq_true h4
  have h6 := of_decide_eq_true h6
  refine ⟨fun n e => ?_, fun d => districtTest_of ?_, fun p => pointTest_of ?_, h4, ?_, h6⟩
  · simpa [e] using nowhere_of h1 n
  · simpa using nowhere_of h2 d
  · simpa using nowhere_of h3 p
  · intro t u v w n a b c d
    exact oneEach_of h5 (x := n) (by rw [a]; exact c) (by rw [b]; exact d)

def storeTest (s : State) : Bool :=
  Memory.wf s.store && s.store.all (fun c => decide (c.1 < storeSize))
    && ifSome s.write (fun w => w.page.inStore && decide (w.bytes.length = pageSize))

theorem storeTest_of {s : State} (h : storeTest s = true) : StoreSound s := by
  unfold storeTest at h
  simp only [Bool.and_eq_true] at h
  obtain ⟨⟨h1, h2⟩, h3⟩ := h
  refine ⟨h1, fun c m => by simpa using List.all_eq_true.1 h2 c m, fun w e => ?_⟩
  simpa [StoreWrite.Sound] using ifSome_of h3 e

/-- A READY part whose loader is idle. -/
def loadTest (s : State) : Bool := decide (s.loadState = .ready ∧ s.loader = .idle)

theorem loadTest_of {s : State} (h : loadTest s = true) : LoadSound s := by
  obtain ⟨h1, h2⟩ := of_decide_eq_true h
  constructor <;> simp [h1, h2]

def routesTest (s : State) : Bool :=
  wherever s.reservations Option.isSome (fun r => match resDef s r with
      | some (v, d) => decide ((tget s.signals d.entrance).entranceOf = some r) && !(tget s.slots v.slot).writing
      | none => false)
    && wherever s.signals (fun e => e.entranceOf.isSome) (fun x => ifSome (tget s.signals x).entranceOf fun r =>
      match resDef s r with
      | some (_, d) => decide (d.entrance = x)
      | none => false)
    && wherever s.signals (fun e => decide (e.aspect ≠ .danger)) (fun x => (tget s.signals x).controlled
      && match (tget s.signals x).entranceOf with
        | some r => decide ((getRes s r).map (·.state) = some .opened)
        | none => false)
    && decide (s.loadState = .ready)
    && ifSome s.write (fun w => match w.what with
      | .slot n => (tget s.slots n).writing
      | _ => true)

theorem routesTest_of {s : State} (h : routesTest s = true) : RoutesSound s := by
  unfold routesTest at h
  simp only [Bool.and_eq_true] at h
  obtain ⟨⟨⟨⟨h1, h2⟩, h3⟩, h4⟩, h5⟩ := h
  have live : ∀ r v, getRes s r = some v → ∃ d, slotDef s v.slot = some d ∧ (tget s.signals d.entrance).entranceOf = some r
      ∧ (tget s.slots v.slot).writing = false := by
    intro r v e
    have g := wherever_of h1 r (by unfold getRes at e; rw [e]; rfl)
    split at g
    · rename_i x w d y
      have k := resDef_of y
      rw [e] at k
      simp only [Bool.and_eq_true, decide_eq_true_eq, Bool.not_eq_true'] at g
      obtain ⟨k1, k2⟩ := k
      cases k1
      exact ⟨d, k2, g.1, g.2⟩
    · cases g
  refine ⟨fun r v e => ?_, fun x r e => ?_, fun x e => ?_, fun e => absurd (of_decide_eq_true h4) e, fun r v e => ?_,
    fun w n e f _ => ?_⟩
  · obtain ⟨d, a, b, _⟩ := live r v e
    exact ⟨d, a, b⟩
  · have g := ifSome_of (wherever_of h2 x (by rw [e]; rfl)) e
    split at g
    · rename_i v d y
      exact ⟨v, d, (resDef_of y).1, (resDef_of y).2, of_decide_eq_true g⟩
    · cases g
  · have g := wherever_of h3 x (by simpa using e)
    simp only [Bool.and_eq_true] at g
    refine ⟨g.1, ?_⟩
    have k := g.2
    split at k
    · rename_i r y
      have z := of_decide_eq_true k
      cases q : getRes s r with
      | none => rw [q] at z; cases z
      | some v =>
        rw [q] at z
        exact ⟨r, v, y, q, by simpa using z⟩
    · cases k
  · obtain ⟨_, _, _, c⟩ := live r v e
    exact c
  · have g := ifSome_of h5 e
    rw [f] at g
    exact g

def isLive (s : State) (r : ResId) : Bool := decide (getRes s r ≠ none)

def moveLive (s : State) (m : Move) : Bool :=
  match m.kind with
  | .interlocking (some r) => isLive s r
  | _ => true

def holdsTest (s : State) : Bool :=
  nowhere s.sections (fun e => !ifSome e.lock fun l => isLive s l.res)
    && nowhere s.points (fun e => !(match e.lock with
      | .res r => isLive s r
      | _ => true))
    && nowhere s.points (fun e => decide (e.state = .moving) && !ifSome e.throwOwner (isLive s))
    && s.throwQueue.all (fun o => ifSome o.owner (isLive s)) && ifSome s.tt.deckLock.holder (isLive s)
    && s.tt.queue.all (moveLive s) && ifSome s.tt.current (moveLive s)

theorem holdsTest_of {s : State} (h : holdsTest s = true) : HoldsSound s := by
  unfold holdsTest at h
  simp only [Bool.and_eq_true] at h
  obtain ⟨⟨⟨⟨⟨⟨h1, h2⟩, h3⟩, h4⟩, h5⟩, h6⟩, h7⟩ := h
  refine ⟨fun n l e => ?_, fun p r e => ?_, fun p r e f => ?_, fun o m r e => ?_, fun r e => ?_, fun m e r f => ?_⟩
  · have g := nowhere_of h1 n
    rw [Bool.not_eq_false'] at g
    exact of_decide_eq_true (ifSome_of g e)
  · have g := nowhere_of h2 p
    simp only [e, Bool.not_eq_false'] at g
    exact of_decide_eq_true g
  · have g := nowhere_of h3 p
    rw [e, decide_eq_true rfl, Bool.true_and, Bool.not_eq_false'] at g
    exact of_decide_eq_true (ifSome_of g f)
  · exact of_decide_eq_true (ifSome_of (List.all_eq_true.1 h4 o m) e)
  · exact of_decide_eq_true (ifSome_of h5 e)
  · have g : moveLive s m = true := e.elim (List.all_eq_true.1 h6 m) (ifSome_of h7)
    unfold moveLive at g
    rw [f] at g
    exact of_decide_eq_true g

/-- The definitions fit and no pair repeats; no route slot is being written. -/
def slotsTest (s : State) : Bool :=
  let used := fun e : SlotRec => match e.status with
    | .defined d => some (d.entrance, d.exit)
    | .absent _ => none
  wherever s.slots (fun e => (used e).isSome) (fun n => ifSome (slotDef s n) fun d => decide (
      d.path ≠ [] ∧ d.path.length ≤ 12 ∧ (d.approach ++ d.path.map (·.sec) ++ d.overlap.map (·.sec)).Nodup
        ∧ (elemPoints d.path ++ elemPoints d.overlap).Nodup ∧ (∀ e ∈ d.overlap, e.deck = none) ∧ layoutCheck s d = none))
    && oneEach s.slots used && s.write.isNone

theorem slotsTest_of {s : State} (h : slotsTest s = true) : SlotsSound s := by
  unfold slotsTest at h
  simp only [Bool.and_eq_true] at h
  obtain ⟨⟨h1, h2⟩, h3⟩ := h
  have st : ∀ n d, slotDef s n = some d → (tget s.slots n).status = .defined d := by
    intro n d e
    unfold slotDef at e
    split at e
    · rename_i x y
      cases e
      exact y
    · cases e
  refine ⟨fun n d e => ?_, fun n m d g e f x y => ?_, fun w n e => ?_⟩
  · have g := of_decide_eq_true (ifSome_of (wherever_of h1 n (by simp only [st n d e]; rfl)) e)
    exact g
  · exact oneEach_of h2 (x := (d.entrance, d.exit)) (by simp only [st n d e]) (by simp only [st m g f, x, y])
  · rw [e] at h3
    cases h3

def channelsTest (s : State) : Bool :=
  oneEach s.districts (fun e => e.cfg) && oneEach s.sections (fun e => e.cfg.map fun c => (c.board, c.input))
    && oneEach s.points (fun e => e.cfg.map fun c => (c.board, c.channel))
    && oneEach s.signals (fun e => e.cfg.map fun c => (c.board, c.head))
    && oneEach s.buttons (fun e => e.cfg.map fun c => (c.board, c.channel)) && oneEach s.depBoards (fun e => e.addr)

theorem channelsTest_of {s : State} (h : channelsTest s = true) : ChannelsDistinct s := by
  unfold channelsTest at h
  simp only [Bool.and_eq_true] at h
  obtain ⟨⟨⟨⟨⟨h1, h2⟩, h3⟩, h4⟩, h5⟩, h6⟩ := h
  refine ⟨fun d e c a b => oneEach_of h1 a b, fun n m c g a b x y => oneEach_of h2 (x := (c.board, c.input)) ?_ ?_,
    fun p q c g a b x y => oneEach_of h3 (x := (c.board, c.channel)) ?_ ?_,
    fun p q c g a b x y => oneEach_of h4 (x := (c.board, c.head)) ?_ ?_,
    fun p q c g a b x y => oneEach_of h5 (x := (c.board, c.channel)) ?_ ?_, fun b d a x y => oneEach_of h6 x y⟩
  all_goals simp_all

def listsTest (s : State) : Bool :=
  (List.finRange 4).all fun b => decide ((tget s.depBoards b).list.Nodup ∧ (tget s.depBoards b).list.length ≤ boardListSize)
    && (List.finRange 32).all fun n =>
      decide (n ∈ (tget s.depBoards b).list) == decide ((tget s.announcements n).map (·.board) = some b)

theorem listsTest_of {s : State} (h : listsTest s = true) : ListsSound s := by
  intro b
  have g := List.all_eq_true.1 h b (List.mem_finRange b)
  simp only [Bool.and_eq_true] at g
  have g1 := of_decide_eq_true g.1
  refine ⟨g1.1, g1.2, fun n => ?_⟩
  have k := List.all_eq_true.1 g.2 n (List.mem_finRange n)
  rw [beq_iff_eq, decide_eq_decide] at k
  rw [k]
  simp [Option.map_eq_some_iff]

def lockedTo (s : State) (r : ResId) (role : LockRole) (e : RouteElem) : Bool :=
  decide ((tget s.sections e.sec).lock = some ⟨r, role⟩)
    && ifSome e.point fun q => decide ((tget s.points q.point).lock = .res r)

def locksTest (s : State) : Bool :=
  wherever s.reservations Option.isSome (fun r => ifSome (resDef s r) fun vd =>
      vd.2.path.zipIdx.all (fun ek => decide (ek.2 < vd.1.releaseCursor) || lockedTo s r (.path ek.2) ek.1)
        && (vd.1.overlapReleased || vd.2.overlap.zipIdx.all fun ek => lockedTo s r (.overlap ek.2) ek.1))
    && wherever s.sections (fun e => e.lock.isSome) (fun n => ifSome (tget s.sections n).lock fun l =>
      ifSome (resDef s l.res) fun vd => match l.role with
        | .path k => decide (vd.1.releaseCursor ≤ k ∧ (vd.2.path[k]?).map (·.sec) = some n)
        | .overlap k => decide (vd.1.overlapReleased = false ∧ (vd.2.overlap[k]?).map (·.sec) = some n))
    && wherever s.points (fun e => decide (e.lock ≠ .free)) (fun p => match (tget s.points p).lock with
      | .res r => ifSome (resDef s r) fun vd => decide (p ∈ elemPoints (vd.2.path ++ vd.2.overlap))
      | _ => true)
    && nowhere s.points (fun e => decide (e.state = .moving) && !(match e.lock with
      | .res r => decide (e.throwOwner = some r)
      | .disowned => e.releaseAtEnd
      | .free => true))
    && nowhere s.points (fun e => e.releaseAtEnd && e.throwOwner.isSome)
    && s.throwQueue.all (fun o => match (tget s.points o.point).lock with
      | .res r => decide (o.owner = some r)
      | _ => true)

theorem lockedTo_of {s : State} {r : ResId} {role : LockRole} {e : RouteElem} (h : lockedTo s r role e = true) :
    (tget s.sections e.sec).lock = some ⟨r, role⟩ ∧ ∀ q, e.point = some q → (tget s.points q.point).lock = .res r := by
  unfold lockedTo at h
  rw [Bool.and_eq_true] at h
  exact ⟨of_decide_eq_true h.1, fun q f => of_decide_eq_true (ifSome_of h.2 f)⟩

theorem locksTest_of {s : State} (h : locksTest s = true) : LocksSound s := by
  unfold locksTest at h
  simp only [Bool.and_eq_true] at h
  obtain ⟨⟨⟨⟨⟨h1, h2⟩, h3⟩, h4⟩, h5⟩, h6⟩ := h
  have live : ∀ r x, resDef s r = some x → (tget s.reservations r).isSome = true := fun r x e => by
    have k := (resDef_of e).1
    unfold getRes at k
    rw [k]
    rfl
  refine ⟨fun r v d k e x c y => ?_, fun r v d k e x c y => ?_, fun n l v d e x => ?_, fun p r v d e x => ?_,
    fun p m => ?_, fun p m => ?_, fun o m r e => ?_⟩
  · have g := ifSome_of (wherever_of h1 r (live r _ x)) x
    rw [Bool.and_eq_true] at g
    have m := List.all_eq_true.1 g.1 (e, k) (List.mem_zipIdx_iff_getElem?.2 y)
    rw [Bool.or_eq_true, decide_eq_true_eq] at m
    exact lockedTo_of (m.resolve_left (Nat.not_lt.2 c))
  · have g := ifSome_of (wherever_of h1 r (live r _ x)) x
    rw [Bool.and_eq_true, Bool.or_eq_true] at g
    have m := List.all_eq_true.1 (g.2.resolve_left (by simp [c])) (e, k) (List.mem_zipIdx_iff_getElem?.2 y)
    exact lockedTo_of m
  · have g := ifSome_of (ifSome_of (wherever_of h2 n (by rw [e]; rfl)) e) x
    split
    · rename_i k y
      simp only [y] at g
      exact of_decide_eq_true g
    · rename_i k y
      simp only [y] at g
      exact of_decide_eq_true g
  · have g := wherever_of h3 p (by simp [e])
    simp only [e] at g
    exact of_decide_eq_true (ifSome_of g x)
  · have g := nowhere_of h4 p
    rw [decide_eq_true m, Bool.true_and, Bool.not_eq_false'] at g
    split
    · rename_i r y
      simp only [y] at g
      exact of_decide_eq_true g
    · rename_i y
      simp only [y] at g
      exact g
    · trivial
  · have g := nowhere_of h5 p
    rw [m, Bool.true_and] at g
    simpa using g
  · have g := List.all_eq_true.1 h6 o m
    simp only [e] at g
    exact of_decide_eq_true g

/-! ### The laws of the signals, the reservations, the turntable, the displays and the outputs -/

def aspectsTest (s : State) : Bool :=
  wherever s.signals (fun e => e.cfg.isSome || decide (e.aspect ≠ .danger)) fun x =>
    decide ((tget s.signals x).aspect = deriveAspect s x)

theorem aspectsTest_of {s : State} (h : aspectsTest s = true) : AspectsSound s := by
  intro x
  have e : (tget s.signals x).aspect = deriveAspect s x := by
    by_cases k : ((tget s.signals x).cfg.isSome || decide ((tget s.signals x).aspect ≠ .danger)) = true
    · exact of_decide_eq_true (wherever_of h x k)
    · simp only [Bool.or_eq_true, not_or, decide_eq_true_eq, not_not, Option.not_isSome_iff_eq_none] at k
      rw [deriveAspect_absent k.1]
      exact k.2
  rw [e]
  exact deriveAspect_shows s x

set_option synthInstance.maxSize 2000 in
set_option synthInstance.maxHeartbeats 400000 in
def reservationsTest (s : State) : Bool :=
  wherever s.reservations Option.isSome fun r => ifSome (resDef s r) fun vd =>
    decide (RequirementsLaw s r vd.1 vd.2) && decide (ReleaseLaw s vd.1 vd.2) && decide (TimersLaw vd.1)

theorem reservationsTest_of {s : State} (h : reservationsTest s = true) : ReservationsSound s := by
  intro r v d e
  have k := (resDef_of e).1
  unfold getRes at k
  have g := ifSome_of (wherever_of h r (by rw [k]; rfl)) e
  simp only [Bool.and_eq_true, decide_eq_true_eq] at g
  exact ⟨g.1.1, g.1.2, g.2⟩

set_option synthInstance.maxSize 2000 in
set_option synthInstance.maxHeartbeats 400000 in
def turntableTest (s : State) : Bool :=
  decide (RunningLaw s) && decide (DeckLockLaw s) && decide (MoveQueueLaw s) && decide (AtRestLaw s)

theorem turntableTest_of {s : State} (h : turntableTest s = true) : TurntableSound s := by
  unfold turntableTest at h
  simp only [Bool.and_eq_true, decide_eq_true_eq] at h
  exact ⟨h.1.1.1, h.1.1.2, h.1.2, h.2⟩

def announcementsTest (s : State) : Bool :=
  wherever s.announcements Option.isSome (fun n => ifSome (tget s.announcements n) fun a =>
      decide (a.state = .ready ↔ Boards s a)
        && decide ((a.linger.isSome = true ↔ a.state = .departed ∨ a.state = .cancelled) ∧ (a.train = none ↔ a.state = .cancelled))
        && ifSome a.train fun t => (tget s.trains t).isSome)
    && wherever s.reservations Option.isSome (fun r => ifSome ((getRes s r).bind (·.train)) fun t => (tget s.trains t).isSome)
    && (List.finRange 4).all fun b => (List.finRange 8).all fun p =>
      decide ((tget (tget s.depBoards b).lines p).text = lineContent s b p)

theorem announcementsTest_of {s : State} (h : announcementsTest s = true) : AnnouncementsSound s := by
  unfold announcementsTest at h
  simp only [Bool.and_eq_true] at h
  obtain ⟨⟨h1, h2⟩, h3⟩ := h
  have some_of : ∀ {t : TrainId}, (tget s.trains t).isSome = true → tget s.trains t ≠ none := fun k e => by simp [e] at k
  have ann : ∀ n a, tget s.announcements n = some a → _ := fun n a e =>
    ifSome_of (wherever_of h1 n (by rw [e]; rfl)) e
  simp only [Bool.and_eq_true, decide_eq_true_eq] at ann
  refine ⟨fun n a e => (ann n a e).1.1, fun n a e => (ann n a e).1.2, fun n a t e f => ?_, fun r v t e f => ?_, fun b p => ?_⟩
  · exact some_of (ifSome_of (ann n a e).2 f)
  · unfold getRes at e
    exact some_of (ifSome_of (wherever_of h2 r (by rw [e]; rfl)) (by unfold getRes; rw [e]; exact f))
  · exact of_decide_eq_true (List.all_eq_true.1 (List.all_eq_true.1 h3 b (List.mem_finRange b)) p (List.mem_finRange p))

def outputsTest (s : State) : Bool :=
  nowhere s.signals (fun e => !ifSome e.cfg fun g => decide (tget (tget s.boards g.board).image.heads g.head = e.aspect))
    && nowhere s.districts (fun e => !ifSome e.cfg fun g =>
      decide (tget (tget s.boards g.board).image.enables g.channel = boosterOn e))
    && nowhere s.points (fun e => !ifSome e.cfg fun g => decide (tget (tget s.boards g.board).image.drives g.channel
      = if e.state = .moving then (e.target.map posDrive).getD .idle else .idle))
    && nowhere s.buttons (fun e => !ifSome e.cfg fun g =>
      decide (tget (tget s.boards g.board).image.lamps g.channel = e.state))
    && ifSome s.tt.cfg fun g => decide ((tget s.boards g.board).image.ttDrive ≠ .stop ↔
      s.tt.state = .turning ∨ s.tt.phase = some .seek)

theorem nowhere_ifSome {α β : Type} {n : Nat} {t : Vector α n} {f : α → Option β} {p : α → β → Bool}
    (h : nowhere t (fun e => !ifSome (f e) (p e)) = true) (i : Fin n) {b : β} (e : f (tget t i) = some b) :
    p (tget t i) b = true := by
  have g := nowhere_of h i
  rw [Bool.not_eq_false'] at g
  exact ifSome_of g e

theorem outputsTest_of {s : State} (h : outputsTest s = true) : OutputsSound s := by
  unfold outputsTest at h
  simp only [Bool.and_eq_true] at h
  obtain ⟨⟨⟨⟨h1, h2⟩, h3⟩, h4⟩, h5⟩ := h
  exact ⟨fun x g e => of_decide_eq_true (nowhere_ifSome h1 x e), fun d g e => of_decide_eq_true (nowhere_ifSome h2 d e),
    fun p g e => of_decide_eq_true (nowhere_ifSome h3 p e), fun b g e => of_decide_eq_true (nowhere_ifSome h4 b e),
    fun g e => of_decide_eq_true (ifSome_of h5 e)⟩

theorem unread_of {s : State} (h : loadTest s = true) : UnreadSound s := by
  obtain ⟨_, h2⟩ := of_decide_eq_true h
  constructor <;> simp [h2]

/-- The invariants, as a test: of a READY part with no store write. -/
def soundTest (s : State) : Bool :=
  trackTest s && storeTest s && loadTest s && routesTest s && holdsTest s && slotsTest s && channelsTest s && listsTest s
    && locksTest s && aspectsTest s && reservationsTest s && turntableTest s && announcementsTest s && decide (demosLive s ≤ 4)
    && outputsTest s

theorem allSound_of_test {s : State} (h : soundTest s = true) : AllSound s := by
  unfold soundTest at h
  simp only [Bool.and_eq_true] at h
  obtain ⟨⟨⟨⟨⟨⟨⟨⟨⟨⟨⟨⟨⟨⟨h1, h2⟩, h3⟩, h4⟩, h5⟩, h6⟩, h7⟩, h8⟩, h9⟩, k1⟩, k2⟩, k3⟩, k4⟩, k5⟩, k6⟩ := h
  obtain ⟨a, b, c, d, e, f⟩ := trackTest_of h1
  exact ⟨a, b, c, d, e, f, storeTest_of h2, loadTest_of h3, routesTest_of h4, holdsTest_of h5, slotsTest_of h6,
    channelsTest_of h7, listsTest_of h8, locksTest_of h9, aspectsTest_of k1, reservationsTest_of k2, turntableTest_of k3,
    announcementsTest_of k4, of_decide_eq_true (p := demosLive s ≤ 4) k5, outputsTest_of k6, unread_of h3⟩

end Sys2Proof.Machine
end

