-- ==== Sys2Proof/Tests/Slice0.lean ====
section
/-! SUPPORT. Tests of the model on small states: ill-formed commands are refused; each command at the ends of its operands'
ranges; and for each obligation with hypotheses a state and operands that meet them. -/

namespace Sys2Proof.Tests
open Sys2Proof.Machine

set_option Elab.async false

/-! ### A small layout

Eleven sections on a DETECTOR board, two points, three signals, three routes, a turntable, a departure board and two
buttons. Every board is PRESENT, every section CLEAR, the load state READY and the supervisor polled. -/

def addSec (n : SectionId) (i : InputNo) (s : State) : State :=
  { s with sections := tput s.sections n ⟨.clear, none, none, some ⟨0, 0, i⟩⟩ }

def addBoard (a : BoardIdx) (x : BoardType) (s : State) : State :=
  { s with boards := tupd s.boards a fun b => { b with type := some x, state := .present } }

def addPoint (p : PointId) (n : SectionId) (c : Channel) (s : State) : State :=
  { s with points := tput s.points p ⟨.normal, none, none, false, none, .free, none, some ⟨n, 1, c⟩⟩ }

def addSignal (g : SignalId) (k : SignalKind) (b f : SectionId) (c : Channel) (s : State) : State :=
  { s with signals := tput s.signals g ⟨.danger, true, none, some ⟨k, 2, c, b, f⟩⟩ }

def addRoute (n : SlotId) (d : RouteDef) (s : State) : State := { s with slots := tput s.slots n ⟨.defined d, false⟩ }

/-- Signal 1 to signal 2 over two points, of which the second stands in the overlap. -/
def mainRoute : RouteDef :=
  ⟨1, .signal 2, .main, 30, [11], [⟨12, some ⟨5, .reverse⟩, none⟩, ⟨13, none, none⟩], [⟨14, some ⟨6, .normal⟩, none⟩]⟩

/-- Signal 2 to the layout's edge. -/
def edgeRoute : RouteDef := ⟨2, .boundary, .main, 20, [13], [⟨14, some ⟨6, .normal⟩, none⟩, ⟨15, none, none⟩], []⟩

/-- Signal 3 over the deck with end A at road 3. -/
def deckRoute : RouteDef := ⟨3, .boundary, .shunt, 0, [16], [⟨20, none, some ⟨3, .a⟩⟩, ⟨17, none, none⟩], []⟩

def track (s : State) : State :=
  let s := addSec 11 0 (addSec 12 1 (addSec 13 2 (addSec 14 3 (addSec 15 4 (addSec 16 5 s)))))
  let s := addSec 17 6 (addSec 20 7 (addSec 21 8 (addSec 22 9 (addSec 255 10 s))))
  let s := addPoint 5 12 0 (addPoint 6 14 1 (addPoint 127 15 2 s))
  addSignal 1 .main 11 12 0 (addSignal 2 .main 13 14 1 (addSignal 3 .shunt 16 20 2 (addSignal 127 .main 16 15 3 s)))

def ready : State :=
  let s := { State.reset with loadState := .ready, stationsRead := true, loader := .idle, imageVersion := some 1 }
  let s := addBoard 0 .detector (addBoard 1 .point (addBoard 2 .signal (addBoard 3 .district s)))
  let s := addBoard 4 .turntable (addBoard 5 .display (addBoard 6 .button s))
  let s := { s with
    districts := tput s.districts 0 ⟨.normal, 0, none, none, none, none, some ⟨3, 0⟩⟩
    boards := tupd s.boards 3 fun b => { b with image := { b.image with enables := tput b.image.enables 0 true } } }
  let s := addRoute 0 mainRoute (addRoute 511 edgeRoute (addRoute 1 deckRoute (track s)))
  { s with
    tt := { s.tt with
      state := .idle, position := some 0, cfg := some ⟨4, 20, 21, 22, tput (tput (tall 24 none) 3 (some 17)) 23 (some 16)⟩ }
    depBoards := tupd s.depBoards 3 fun b => { b with addr := some 5 }
    buttons := tput (tput s.buttons 0 ⟨.off, none, none, none, none, some ⟨.turntable 3 .a, 10, 6, 0⟩⟩) 7
      ⟨.off, none, none, none, none, some ⟨.route 511, 600, 6, 7⟩⟩
    stations := tupd (tupd s.stations 0 fun e => { e with enrolled := true }) 14 fun e => { e with enrolled := true }
    panelLink := { s.panelLink with polled := some 0 } }

/-- The state that a command leaves. -/
def after (c : Instr) (s : State) : State :=
  match exec c s with
  | .next t => t
  | .refused _ => s

/-- The supervisor, or another station, is the one polled. -/
def polling (st : StationId) (s : State) : State := { s with panelLink := { s.panelLink with polled := some st } }

/-- The state that some commands leave, the supervisor being polled after each. -/
def run (l : List Instr) (s : State) : State := l.foldl (fun s c => polling 0 (after c s)) s

/-- The result and the detail of the response that a command gives. -/
def resultOf (c : Instr) (s : State) : Option (ResultCode × Detail) :=
  (after c { s with panelLink := { s.panelLink with response := none } }).panelLink.response.map fun r => (r.result, r.detail)

/-- Each command of a list gives the result beside it. -/
def gives (s : State) (l : List (Instr × ResultCode)) : Bool :=
  l.all fun x => decide ((resultOf x.1 s).map (·.1) = some x.2)

/-- The headcode 1A05. -/
def headcode : Headcode := ⟨#[0x31, 0x41, 0x30, 0x35], rfl⟩

/-! ### Ill-formed commands -/

/-- A text one character longer than a request's parameters may be. -/
def tooLong : List Byte := List.replicate 96 0x41
def full : List Byte := List.replicate 95 0x41

theorem test_setThroughRoute_illFormed : (Instr.setThroughRoute 0 7 (List.replicate 96 1)).wellFormed = false
    ∧ (Instr.setThroughRoute 0 7 (List.replicate 95 1)).wellFormed = true := by decide +kernel

theorem test_editTrain_illFormed : (Instr.editTrain 0 7 0 ⟨none, none, none, some tooLong, none, false⟩).wellFormed = false
    ∧ (Instr.editTrain 0 7 0 ⟨none, none, none, some full, none, false⟩).wellFormed = true := by decide +kernel

theorem test_newTrains_illFormed : (Instr.enterTrainOffLayout 0 7 headcode (some .goods) 1 tooLong).wellFormed = false
    ∧ (Instr.interposeTrain 0 7 1 headcode (some .goods) 1 tooLong none).wellFormed = false
    ∧ (Instr.interposeTrain 0 7 1 headcode (some .goods) 1 full none).wellFormed = true := by decide +kernel

theorem test_announce_illFormed : (Instr.announce 0 7 0 0 0 [1, 2, 3, 4, 5] (some tooLong)).wellFormed = false
    ∧ (Instr.announce 0 7 0 0 0 tooLong none).wellFormed = false
    ∧ (Instr.announce 0 7 0 0 0 [1, 2, 3, 4, 5] none).wellFormed = true := by decide +kernel

theorem test_editAnnouncement_illFormed : (Instr.editAnnouncement 0 7 0 ⟨none, some (.own tooLong), none⟩).wellFormed = false
    ∧ (Instr.editAnnouncement 0 7 0 ⟨some tooLong, none, none⟩).wellFormed = false
    ∧ (Instr.editAnnouncement 0 7 0 ⟨none, some .train, none⟩).wellFormed = true := by decide +kernel

/-! ### The step and the panel link -/

theorem test_theQueueIsFirstInFirstOut : ∀ t, step { State.reset with pending := [.idle 0, .pollReplyTimeout] } = .next t →
    t.pending = [.pollReplyTimeout] ∧ t.panelLink.polled = some 1 := by
  intro t h
  have g : t = after (.idle 0) { State.reset with pending := [.pollReplyTimeout] } := (Host.Outcome.next.inj h).symm
  rw [g]
  decide +kernel

theorem test_anEmptyQueuePassesAMillisecond : State.reset.pending = [] ∧ State.reset.resetHeld = false
    ∧ { State.reset with resetHeld := true }.pending = [] := by decide +kernel

theorem test_aHeldResetStopsCommands : { ready with resetHeld := true }.resetHeld = true ∧ (∀ x, Instr.idle 0 ≠ .chipReset x)
    ∧ Instr.idle 0 ≠ .chipResetAsserted := ⟨rfl, by simp, by simp⟩

theorem asks_of {s : State} {st : StationId}
    (h : decide (s.resetHeld = false ∧ s.panelLink.polled = some st ∧ s.loadState = .ready) = true) : Asks st s :=
  ⟨⟨(of_decide_eq_true h).1, (of_decide_eq_true h).2.1⟩, (of_decide_eq_true h).2.2⟩

theorem test_asks_ready : Asks 0 ready := asks_of (by decide +kernel)

theorem test_sound_ready : AllSound ready := allSound_of_test (by decide +kernel)

/-- Station 14's re-poll is due, and station 0 is the last polled. -/
def repollDue : State :=
  { ready with
    stations := tupd ready.stations 14 fun e => { e with present := false, repollDue := true, repollTimer := some 1 }
    panelLink := { ready.panelLink with lastPolled := some 0 } }

theorem test_theNextPoll : (after (.idle 0) { ready with panelLink := { ready.panelLink with lastPolled := some 0 } }).panelLink.polled = some 14
    ∧ (after (.idle 0) { ready with panelLink := { ready.panelLink with lastPolled := some 14 } }).panelLink.polled = some 0
    ∧ (after (.idle 0) repollDue).panelLink.polled = some 14
    ∧ (after (.idle 0) { ready with layoutResetDue := true }).panelLink.polled = none := by decide +kernel

theorem test_aReplyFromAnAbsentStation : Polled 14 (polling 14 repollDue) ∧ (tget repollDue.stations 14).present = false :=
  ⟨⟨by decide +kernel, rfl⟩, by decide +kernel⟩

/-- Station 0 with a miss count. -/
def missed (n : Nat) : State := { ready with stations := tupd ready.stations 0 fun e => { e with missCount := n } }

theorem test_misses : Polled 0 ready ∧ isEnrolled ready 0 = true
    ∧ (tget (after .pollReplyTimeout (missed 1)).stations 0).missCount = 2
    ∧ (tget (after .replyBytePauseTimeout (missed 2)).stations 0).present = false
    ∧ (tget (after .panelBadReply (missed 2)).stations 0).repollTimer = some 2000
    ∧ (tget (after .pollReplyTimeout (polling 14 repollDue)).stations 14).missCount = 0 :=
  ⟨test_asks_ready.1, by decide +kernel, by decide +kernel, by decide +kernel, by decide +kernel, by decide +kernel⟩

theorem test_stationRepollExpiry : (tget ready.stations 14).repollTimer = none
    ∧ (tget (after (.stationRepollExpiry 14) repollDue).stations 14).repollTimer = some 2000
    ∧ (after (.stationRepollExpiry 14) { repollDue with panelLink := { repollDue.panelLink with polled := none } }).panelLink.polled
      = some 14 := by decide +kernel

theorem test_whichRequestsAreTaken : gives (polling 0 State.reset) [(.readSection 0 7 0, .notReady), (.readStatus 0 7, .done),
      (.readStore 0 7 (.slot 0) true, .notReady), (.unknownRequest 0 7 0xFF, .badRequest)]
    ∧ gives { ready with loadState := .noImage } [(.readStatus 0 7, .done), (.setOpenDay 0 7 none, .notReady)]
    ∧ (tget (after (.readSection 14 7 0) ready).stations 0).missCount = 1
    ∧ (after (.idle 0) { ready with panelLink := { ready.panelLink with polled := none } }).panelLink.polled = none := by
  decide +kernel

/-- The supervisor has two flags and station 14 one. -/
def flagged : State := setFlag .board 0 (setFlag .store 0 (setFlag .point 14 ready))

theorem test_readEvents : Asks 0 flagged ∧ resultOf (.readEvents 0 7) flagged = some (.done, .events [.store, .board])
    ∧ resultOf (.readEvents 0 7) ready = some (.done, .events [])
    ∧ hasFlag (after (.readEvents 0 7) flagged) 14 .point = true :=
  ⟨⟨⟨by decide +kernel, by decide +kernel⟩, by decide +kernel⟩, by decide +kernel, by decide +kernel, by decide +kernel⟩

theorem test_readStatus : Polled 0 (polling 0 State.reset) ∧ LoadSound ready
    ∧ gives { ready with loadState := .noImage, imageVersion := none } [(.readStatus 0 7, .done)] :=
  ⟨⟨rfl, rfl⟩, test_sound_ready.load, by decide +kernel⟩

/-! ### Resets -/

theorem test_chipReset : State.reset.write = none ∧ (after (.chipReset 3) ready).linkRate = 3
    ∧ (after (.chipReset 0) ready).loader = .header ∧ (after .chipResetAsserted ready).resetHeld = true := by decide +kernel

theorem test_layoutReset : gives (polling 14 ready) [(.layoutReset 14 7, .notPermitted)]
    ∧ gives ready [(.layoutReset 0 7, .done)] ∧ gives { ready with loadState := .noImage } [(.layoutReset 0 7, .done)]
    ∧ (after (.layoutReset 0 7) ready).layoutResetDue = true ∧ (after (.layoutReset 0 7) ready).panelLink.polled = none := by
  decide +kernel

/-- A LAYOUT RESET is due, the turntable being in a state. -/
def resetDue (x : TtState) : State := { ready with layoutResetDue := true, tt := { ready.tt with state := x } }

theorem test_layoutResetCarriedOut : ready.layoutResetDue = false
    ∧ (after .layoutResetCarriedOut (resetDue .idle)).tt.position = some 0
    ∧ (after .layoutResetCarriedOut (resetDue .turning)).tt.position = none
    ∧ (after .layoutResetCarriedOut (resetDue .turning)).tt.interrupted = true
    ∧ (after .layoutResetCarriedOut (resetDue .idle)).loader = .header
    ∧ isEnrolled ready 3 = false ∧ isEnrolled (after .layoutResetCarriedOut (resetDue .idle)) 3 = true := by decide +kernel

/-! ### The load and the store -/

/-- The state in which the loader reads something, over a store. -/
def loading (x : Loader) (m : List Host.Cell) : State := { State.reset with loader := x, store := m }

/-- A header page with its signature and its CRC. -/
def header : List Byte :=
  let b := [0x4A, 0x58, 0x47, 0x53, 0x12, 0x34] ++ List.replicate 56 0
  b ++ wordBytes (crc16 b)

theorem test_loadHeaderRead : (after .loadHeaderRead (loading .header (memWrites [] 0 header))).loader = .block 0 []
    ∧ (after .loadHeaderRead (loading .header (memWrites [] 0 header))).imageVersion = some 0x1234
    ∧ (after .loadHeaderRead State.reset).loadState = .noImage ∧ ready.loader ≠ .header := by decide +kernel

/-- What the header holds for the erased area of a block: its item count and its CRC. -/
def heldEntry (k : Fin 9) : List Byte :=
  wordBytes (BitVec.ofNat 16 (itemCount k (List.replicate 64 0xFF))) ++ wordBytes (crc16 (List.replicate 64 0xFF))

/-- A store that is erased but for the header's entry of one block. -/
def blockHeld (k : Fin 9) : List Host.Cell := memWrites [] (8 + 4 * k.val) (heldEntry k)

theorem blockHeld_word (k : Fin 9) (i : Nat) (w : BitVec 16) (l r : List Byte)
    (hl : l ++ wordBytes w ++ r = heldEntry k) (hi : 8 + 4 * k.val + l.length = i) :
    wordAt (memReads (blockHeld k) 0 64) i = w := by
  have hb : blockHeld k = memWrites [] (8 + 4 * k.val) (l ++ wordBytes w ++ r) := by rw [hl]; rfl
  have hlen := congrArg List.length hl
  simp only [heldEntry, List.length_append, wordBytes_length] at hlen
  have read : ∀ j, j < (l ++ wordBytes w ++ r).length → byteAt (memReads (blockHeld k) 0 64) (8 + 4 * k.val + j)
      = (l ++ wordBytes w ++ r).getD j 0 := by
    intro j hj
    have h64 : 8 + 4 * k.val + j < 64 := by
      simp only [List.length_append, wordBytes_length] at hj
      omega
    unfold byteAt memReads
    rw [List.getD_eq_getElem?_getD, List.getElem?_map, List.getElem?_range h64]
    show memRead (blockHeld k) (0 + (8 + 4 * k.val + j)) = _
    rw [hb, Nat.zero_add, memRead_memWrites_inside [] _ Memory.wf_nil j hj]
    rw [List.getD_eq_getElem?_getD, List.getElem?_eq_getElem hj]
    rfl
  unfold wordAt
  have a0 := read l.length (by simp)
  have a1 := read (l.length + 1) (by simp; omega)
  rw [hi] at a0
  rw [← Nat.add_assoc, hi] at a1
  rw [a0, a1]
  simp only [wordBytes, List.append_assoc, List.getD_eq_getElem?_getD, List.getElem?_append_right (Nat.le_refl _),
    List.getElem?_append_right (Nat.le_succ _), Nat.sub_self, Nat.succ_eq_add_one, Nat.add_sub_cancel_left]
  show w.extractLsb' 8 8 ++ w.extractLsb' 0 8 = w
  ext k hk
  simp only [BitVec.getElem_append, BitVec.getElem_extractLsb']
  split <;> simp <;> grind

theorem blockHeld_matches (k : Fin 9) (h2 : (blockArea k).2 = 64) (h1 : 44 ≤ (blockArea k).1) (failed : List (Fin 9)) :
    ∀ s, s = loading (.block k failed) (blockHeld k) → s.resetHeld = false ∧ s.loader = .block k failed
    ∧ areaWhole s (blockArea k).1 (blockArea k).2 = true
    ∧ crc16 (memReads s.store (blockArea k).1 (blockArea k).2) = wordAt (memReads s.store 0 64) (10 + 4 * k.val)
    ∧ BitVec.ofNat 16 (itemCount k (memReads s.store (blockArea k).1 (blockArea k).2))
      = wordAt (memReads s.store 0 64) (8 + 4 * k.val) := by
  intro s e
  subst e
  have area : memReads (blockHeld k) (blockArea k).1 (blockArea k).2 = List.replicate 64 0xFF := by
    refine List.ext_getElem (by simp [h2]) fun i h3 h4 => ?_
    simp only [memReads, List.getElem_map, List.getElem_range, List.getElem_replicate]
    exact memRead_memWrites_outside [] _ (Or.inr (by simp [heldEntry]; omega))
  refine ⟨rfl, rfl, rfl, ?_, ?_⟩
  · show crc16 (memReads (blockHeld k) (blockArea k).1 (blockArea k).2) = _
    rw [area]
    exact (blockHeld_word k _ _ (wordBytes (BitVec.ofNat 16 (itemCount k (List.replicate 64 0xFF)))) []
      (by simp [heldEntry]) (by simp; omega)).symm
  · show BitVec.ofNat 16 (itemCount k (memReads (blockHeld k) (blockArea k).1 (blockArea k).2)) = _
    rw [area]
    exact (blockHeld_word k _ _ [] (wordBytes (crc16 (List.replicate 64 0xFF))) (by simp [heldEntry]) (by simp)).symm

theorem test_aBlockThatMatchesItsHeader : ∀ s, s = loading (.block 7 []) (blockHeld 7) → s.resetHeld = false
    ∧ s.loader = .block 7 [] ∧ areaWhole s (blockArea 7).1 (blockArea 7).2 = true
    ∧ crc16 (memReads s.store (blockArea 7).1 (blockArea 7).2) = wordAt (memReads s.store 0 64) (10 + 4 * 7)
    ∧ BitVec.ofNat 16 (itemCount 7 (memReads s.store (blockArea 7).1 (blockArea 7).2)) = wordAt (memReads s.store 0 64) (8 + 4 * 7) :=
  blockHeld_matches 7 rfl (by decide) []


theorem test_loadConfigBlockRead : (after .loadConfigBlockRead (loading (.block 3 []) [])).loader = .block 4 [3]
    ∧ (after .loadConfigBlockRead (loading (.block 7 [2]) [])).storeDamaged = true
    ∧ (State.reset.loader = .header) := by decide +kernel

theorem test_theItemsOfTheBlocks : (loading (.block 8 [0, 1, 2, 3, 4, 5, 6, 7, 8]) []).resetHeld = false
    ∧ (loading (.block 8 [0, 1, 2, 3, 4, 5, 6, 7, 8]) []).loader = .block 8 [0, 1, 2, 3, 4, 5, 6, 7, 8] := ⟨rfl, rfl⟩

def pageOf (bs : List Byte) : Page := Vector.ofFn fun i => bs.getD i.val 0

/-- The page of a definition from a signal to the layout's edge, over sections 14 and 15 and point 6. -/
def edgePage (a : Byte) : Page :=
  let b := [1, a, 1, 0, 0, 20, 1, 2, 0, 13, 0, 0, 14, 6, 0xFF, 15, 0xFF, 0xFF] ++ List.replicate 44 0
  pageOf (b ++ wordBytes (crc16 b))

/-- A store that holds one page. -/
def holding (n : SlotId) (p : Page) : List Host.Cell :=
  (p.toList.zipIdx.filter fun x => decide (x.1 ≠ 0xFF)).map fun x => (slotAddress n + x.2, x.1)

/-- Slot `n` of the layout is being loaded, its page holding some bytes. -/
def loadingSlot (n : SlotId) (p : Page) (m : List Nat) : State :=
  { ready with
    loadState := .loading, loader := .slot n, store := holding n p, torn := m
    slots := tput (tall 512 .reset) 3 ⟨.defined deckRoute, false⟩ }

/-- The status that the loaded slot takes. -/
def loadedAs (n : SlotId) (p : Page) (m : List Nat) : SlotStatus :=
  (tget (after .loadRouteSlotRead (loadingSlot n p m)).slots n).status

theorem test_loadRouteSlotRead : loadedAs 0 (pageOf [1]) [] = .absent .damaged ∧ loadedAs 510 (edgePage 2) [1022] = .absent .damaged
    ∧ loadedAs 511 (pageOf (List.replicate 64 0xFF)) [] = .absent .unused := by decide +kernel

theorem test_loadingSlot_page : slotPage (loadingSlot 0 (edgePage 2) []) 0 = (edgePage 2).toList
    ∧ slotPage (loadingSlot 511 (edgePage 3) []) 511 = (edgePage 3).toList := by decide +kernel

/-- What an accepted page holds. -/
def formTaken (p : Page) : Option RouteDef :=
  match formCheck p.toList with
  | .ok d => some d
  | .error _ => none

/-- The form check that a page fails. -/
def formFailed (p : Page) : Option Nat :=
  match formCheck p.toList with
  | .ok _ => none
  | .error k => some k

theorem test_theWaysToDecideASlot : crc16 ((edgePage 2).toList.take 62) = wordAt (edgePage 2).toList 62
    ∧ formTaken (edgePage 2) = some edgeRoute ∧ formFailed (edgePage 127) = none ∧ formFailed (edgePage 128) = some 1
    ∧ layoutCheck ready edgeRoute = none ∧ layoutCheck ready { edgeRoute with entrance := 3 } = some 9
    ∧ (tget ready.slots 511).hasPair edgeRoute.entrance edgeRoute.exit = true
    ∧ (tget ready.slots 0).hasPair edgeRoute.entrance edgeRoute.exit = false := by decide +kernel

/-- Each layout check refuses a definition that fails it, and a definition may fail two. -/
theorem test_theLayoutChecks : edgeRoute.path ≠ [] ∧ (∀ e ∈ mainRoute.overlap ++ edgeRoute.overlap, e.deck = none)
    ∧ [mainRoute, deckRoute, { deckRoute with cls := .main }, { mainRoute with exit := .signal 4 },
      { edgeRoute with approach := [10] }, { edgeRoute with path := [⟨14, some ⟨5, .normal⟩, none⟩] },
      { edgeRoute with approach := [20] }, { deckRoute with path := [⟨20, none, none⟩, ⟨17, none, none⟩] },
      { edgeRoute with path := [⟨14, none, some ⟨3, .a⟩⟩] }, { edgeRoute with path := [⟨15, none, none⟩] },
      { mainRoute with path := [⟨12, none, none⟩] }, { mainRoute with overlap := [⟨15, none, none⟩] },
      { mainRoute with overlap := [] }, { mainRoute with cls := .shunt, approach := [10] }].map (layoutCheck ready)
      = [none, none, some 9, some 10, some 11, some 12, some 13, some 13, some 13, some 14, some 15, some 15, none, some 9] := by
  decide +kernel

theorem test_theLastSlot : (after .loadRouteSlotRead (loadingSlot 511 (pageOf (List.replicate 64 0xFF)) [])).loadState = .ready
    ∧ (tget (after .loadRouteSlotRead (loadingSlot 511 (pageOf (List.replicate 64 0xFF)) [])).districts 0).state = .normal
    ∧ (tget (after .loadRouteSlotRead { loadingSlot 511 (pageOf (List.replicate 64 0xFF)) [] with
        boards := tall 32 .reset }).districts 0).state = .tripped := by decide +kernel

theorem test_anAcceptedDefinition : ∃ d, formCheck (edgePage 2).toList = .ok d := by
  have h : formTaken (edgePage 2) = some edgeRoute := by decide +kernel
  unfold formTaken at h
  split at h
  · exact ⟨_, by assumption⟩
  · cases h

/-- A write of a page is in progress, the route slot's own or another. -/
def writing (what page : StorePage) (p : Page) (x : LoadState) : State :=
  { ready with write := some ⟨what, page, p.toList⟩, loadState := x }

theorem test_storeAckTimeout : (after .storeAckTimeout State.reset).loadState = .noImage
    ∧ (after .storeAckTimeout (loading (.block 0 []) [])).loader = .block 1 [0]
    ∧ (after .storeAckTimeout (loading (.block 8 [0, 1, 2, 3, 4, 5, 6, 7]) [])).storeDamaged = true
    ∧ (after .storeAckTimeout (loading (.slot 510) [])).loader = .slot 511
    ∧ (after .storeAckTimeout (loading (.slot 511) [])).loadState = .ready
    ∧ (writing (.slot 5) (.slot 5) (edgePage 2) .ready).loader = .idle ∧ (ready.loader = .idle ∧ ready.write = none) := by
  decide +kernel

theorem test_sound_writing : StoreSound (writing (.slot 0) (.slot 0) (edgePage 2) .ready)
    ∧ StoreSound (writing (.slot 511) .header (edgePage 2) .ready)
    ∧ StoreSound (writing (.config 0 31) (.config 0 31) (edgePage 2) .noImage) :=
  ⟨storeTest_of (by decide +kernel), storeTest_of (by decide +kernel), storeTest_of (by decide +kernel)⟩

theorem test_storePageWritten : ((after (.storePageWritten (edgePage 2)) (writing (.slot 0) (.slot 0) (edgePage 2) .ready)).write.map
        (·.page)) = some .header
    ∧ (after (.storePageWritten (edgePage 3)) (writing (.slot 0) (.slot 0) (edgePage 2) .ready)).lastStoreResult
      = some (.failed (.slot 0))
    ∧ ((after (.storePageWritten (edgePage 2)) (writing (.config 0 31) (.config 0 31) (edgePage 2) .noImage)).write.map (·.page))
      = some .header
    ∧ (after (.storePageWritten (edgePage 2)) (writing (.slot 511) .header (edgePage 2) .ready)).lastStoreResult
      = some (.done (.slot 511))
    ∧ (tget (after (.storePageWritten (edgePage 2)) (writing (.slot 511) .header (edgePage 2) .ready)).slots 511).status
      = .absent .unused := by decide +kernel

theorem test_aDefinitionIsReplaced : (tget (after (.storePageWritten (edgePage 2)) { writing (.slot 511) .header (edgePage 2) .ready with
      store := holding 511 (edgePage 2) }).slots 511).status = .defined edgeRoute := by decide +kernel

theorem test_onlyThePageBeingWritten : (∃ w, (writing (.slot 0) (.slot 0) (edgePage 2) .ready).write = some w
      ∧ w.page.address = 0x8000 ∧ (0x7FFF < w.page.address ∧ w.page.address + 64 ≤ 0x8040))
    ∧ ready.write = none := ⟨⟨_, rfl, by decide +kernel⟩, rfl⟩

/-- Route 511 is in use. -/
def opened : State := run [.setRoute 0 7 2 .boundary] ready

theorem test_writeRouteSlot : gives ready [(.writeRouteSlot 0 7 511 (edgePage 2), .accepted), (.writeRouteSlot 0 7 512 (edgePage 2), .badRequest),
      (.writeRouteSlot 0 7 0 (edgePage 128), .badRequest), (.writeRouteSlot 0 7 0 (pageOf (List.replicate 64 0xFF)), .accepted)]
    ∧ resultOf (.writeRouteSlot 0 7 0 (edgePage 2)) ready = some (.badRequest, .check 16 (some 511))
    ∧ resultOf (.writeRouteSlot 0 7 0 (edgePage 3)) ready = some (.badRequest, .check 9 none)
    ∧ resultOf (.writeRouteSlot 0 7 511 (edgePage 2)) opened = some (.inUse, .item (.res 0)) := by decide +kernel

theorem test_whoWritesTheStore : gives (polling 14 ready) [(.writeRouteSlot 14 7 0 (edgePage 2), .notPermitted),
      (.writeConfigBlock 14 7 0 0 (edgePage 2), .notPermitted), (.readStore 14 7 (.slot 0) true, .notPermitted)]
    ∧ gives (writing (.slot 0) (.slot 0) (edgePage 2) .ready) [(.writeRouteSlot 0 7 0 (edgePage 2), .busy),
      (.writeConfigBlock 0 7 0 31 (edgePage 2), .busy), (.readStore 0 7 (.slot 0) true, .busy)] := by decide +kernel

theorem test_writeConfigBlock : gives ready [(.writeConfigBlock 0 7 0 31 (edgePage 2), .accepted),
      (.writeConfigBlock 0 7 0 32 (edgePage 2), .badRequest), (.writeConfigBlock 0 7 8 0 (edgePage 2), .accepted),
      (.writeConfigBlock 0 7 8 1 (edgePage 2), .badRequest), (.writeConfigBlock 0 7 9 0 (edgePage 2), .badRequest)]
    ∧ gives { ready with loadState := .noImage } [(.writeConfigBlock 0 7 0 0 (edgePage 2), .accepted)] := by decide +kernel

theorem test_readStore : gives ready [(.readStore 0 7 (.bytes 0 0) true, .badRequest), (.readStore 0 7 (.bytes 0xFFFF 1) true, .done),
      (.readStore 0 7 (.bytes 0xFFFF 2) true, .badRequest), (.readStore 0 7 (.bytes 0 64) true, .done),
      (.readStore 0 7 (.bytes 0 65) true, .badRequest), (.readStore 0 7 (.slot 512) true, .badRequest),
      (.readStore 0 7 (.slot 511) false, .itemFailed)]
    ∧ resultOf (.readStore 0 7 (.slot 511) true) ready
      = some (.done, .slotBytes (List.replicate 64 0xFF) (.defined edgeRoute)) := by decide +kernel

theorem test_readStoreInNoImage : (Polled 0 (polling 0 State.reset) ∧ LoadSound (polling 0 State.reset))
    ∧ resultOf (.readStore 0 7 (.slot 0) true) { ready with loadState := .noImage, slots := tall 512 .reset }
      = some (.done, .slotBytes (List.replicate 64 0xFF) (.absent .notLoaded)) := by
  refine ⟨⟨⟨rfl, rfl⟩, ?_⟩, by decide +kernel⟩
  have h := (afterChipReset_allSound 0 [] 0 [] Memory.wf_nil (by simp)).load
  exact ⟨h.loading, h.noWrite, h.version, h.empty⟩

/-! ### Sections, districts, signals and points -/

theorem test_readsOfTheTrack : gives ready [(.readSection 0 7 255, .done), (.readSection 0 7 256, .badRequest),
      (.readSection 0 7 0, .noSuchItem), (.readSignal 0 7 127, .done), (.readSignal 0 7 128, .badRequest),
      (.readSignal 0 7 0, .noSuchItem), (.readDistrict 0 7 0, .done), (.readDistrict 0 7 7, .noSuchItem),
      (.readDistrict 0 7 8, .badRequest), (.readPoint 0 7 127, .done), (.readPoint 0 7 128, .badRequest),
      (.readPoint 0 7 0, .noSuchItem)] := by decide +kernel

/-- A section has an occupancy. -/
def occupy (n : SectionId) (x : Occupancy) (s : State) : State :=
  { s with sections := tupd s.sections n fun e => { e with occ := x } }

theorem test_readSection : resultOf (.readSection 0 7 255) (occupy 255 .occupied ready) = some (.done, .sec
    { occ := .occupied, clearPending := false, lock := none, cfg := ⟨0, 0, 10⟩, held := false, head := none }) := by decide +kernel

theorem test_detectorReports : (tget (detectorReport 255 true ready).sections 255).occ = .occupied
    ∧ (tget (detectorReport 255 true (occupy 255 .unknown ready)).sections 255).occ = .occupied
    ∧ (tget (detectorReport 255 false (occupy 255 .occupied ready)).sections 255).clearTimer = some 500
    ∧ (tget (detectorReport 255 false ready).sections 255).clearTimer = none
    ∧ (tget (detectorReport 0 true ready).sections 0).occ = .unknown
    ∧ (∃ g, (tget ready.sections 255).cfg = some g ∧ ready.loadState = .ready ∧ (tget ready.boards g.board).state = .present
      ∧ (tget ready.districts g.district).state = .normal) :=
  ⟨by decide +kernel, by decide +kernel, by decide +kernel, by decide +kernel, by decide +kernel, ⟨_, rfl, by decide +kernel⟩⟩

/-- Section 255 is OCCUPIED with its clear delay running. -/
def clearing : State := detectorReport 255 false (occupy 255 .occupied ready)

theorem test_clearDelayExpiry : clearing.resetHeld = false ∧ SectionsSound clearing ∧ (tget clearing.sections 255).clearTimer ≠ none
    ∧ (tget (after (.clearDelayExpiry 255) clearing).sections 255).occ = .clear
    ∧ (tget (after (.clearDelayExpiry 255) ready).sections 255).clearTimer = none :=
  ⟨rfl, (trackTest_of (by decide +kernel)).1, by decide +kernel, by decide +kernel, by decide +kernel⟩

/-- Route 0 is SETTING: its first point moves. -/
def setting : State := run [.setRoute 0 7 1 (.signal 2)] ready

/-- Its throw has failed. -/
def stalled : State := run [.throwTimerExpiry 5] setting

theorem test_sound_setting : AllSound setting := allSound_of_test (by decide +kernel)
theorem test_sound_stalled : AllSound stalled := allSound_of_test (by decide +kernel)

/-- A point at rest in a state. -/
def pointAt (p : PointId) (x : PointState) (s : State) : State :=
  { s with points := tupd s.points p fun e => { e with state := x } }

theorem test_sound_pointAt : AllSound (pointAt 127 .reverse ready) ∧ AllSound (pointAt 127 .unknown ready)
    ∧ AllSound (pointAt 127 .failed ready) :=
  ⟨allSound_of_test (by decide +kernel), allSound_of_test (by decide +kernel), allSound_of_test (by decide +kernel)⟩

theorem test_detectionReports : (tget ready.points 127).cfg = some ⟨15, 1, 2⟩ ∧ ready.loadState = .ready
    ∧ (tget (detectionReport 1 2 ⟨true, false⟩ ready).points 127).state = .normal
    ∧ (tget (detectionReport 1 2 ⟨false, false⟩ ready).points 127).state = .failed
    ∧ (tget (detectionReport 1 2 ⟨false, true⟩ (pointAt 127 .reverse ready)).points 127).state = .reverse
    ∧ (tget (detectionReport 1 2 ⟨false, false⟩ (pointAt 127 .unknown ready)).points 127).state = .unknown
    ∧ (tget (detectionReport 1 2 ⟨true, true⟩ (pointAt 127 .unknown ready)).points 127).state = .failed
    ∧ (tget (detectionReport 1 2 ⟨true, false⟩ (pointAt 127 .failed ready)).points 127).state = .failed := by decide +kernel

theorem test_detectionOfAThrow : (tget setting.points 5).state = .moving ∧ (tget setting.points 5).target = some .reverse
    ∧ (tget setting.points 5).cfg = some ⟨12, 1, 0⟩
    ∧ (tget (detectionReport 1 0 ⟨false, true⟩ setting).points 5).state = .reverse
    ∧ (tget (detectionReport 1 0 ⟨true, false⟩ setting).points 5).state = .moving := by decide +kernel

/-- A throw queue of a length, of orders for the points from 64 on. -/
def queued (n : Nat) : List ThrowOrder := (List.range n).map fun k => ⟨Fin.ofNat 128 (64 + k), .normal, none⟩

theorem test_throwPoint : gives ready [(.throwPoint 0 7 127 (some .reverse), .accepted), (.throwPoint 0 7 128 (some .normal), .badRequest),
      (.throwPoint 0 7 127 none, .badRequest), (.throwPoint 0 7 0 (some .normal), .noSuchItem),
      (.throwPoint 0 7 127 (some .normal), .done)]
    ∧ gives (polling 14 ready) [(.throwPoint 14 7 127 (some .reverse), .outOfTerritory)]
    ∧ gives setting [(.throwPoint 0 7 6 (some .reverse), .locked)]
    ∧ gives (run [.throwPoint 0 7 127 (some .reverse)] ready) [(.throwPoint 0 7 127 (some .reverse), .pointBusy)]
    ∧ gives { ready with boards := tupd ready.boards 1 fun b => { b with state := .failed } }
      [(.throwPoint 0 7 127 (some .reverse), .itemFailed)]
    ∧ gives (run [.setRoute 0 7 2 .boundary] ready) [(.throwPoint 0 7 127 (some .reverse), .conflict)]
    ∧ gives (occupy 15 .unknown ready) [(.throwPoint 0 7 127 (some .reverse), .occupied)]
    ∧ gives { ready with throwQueue := queued 32 } [(.throwPoint 0 7 127 (some .reverse), .queueFull)]
    ∧ gives { ready with throwQueue := queued 31, rechargeTimer := some 1 } [(.throwPoint 0 7 127 (some .reverse), .accepted)] := by
  decide +kernel

/-- A second order waits for the recharge timer. -/
def waiting : State := run [.throwPoint 0 7 127 (some .reverse)] setting

theorem test_appendedOrders : waiting.throwQueue = [⟨127, .reverse, none⟩] ∧ setting.rechargeTimer = some 300
    ∧ (tget (appendOrder ⟨127, .reverse, none⟩ ready).points 127).state = .moving
    ∧ (appendOrder ⟨127, .reverse, none⟩ { ready with throwQueue := queued 32 }).throwQueue.length = 32
    ∧ (appendOrder ⟨127, .normal, none⟩ waiting).throwQueue = waiting.throwQueue
    ∧ (appendOrder ⟨5, .normal, none⟩ setting).throwQueue = []
    ∧ (appendOrder ⟨127, .reverse, none⟩ (occupy 15 .occupied ready)).throwQueue = [] := by decide +kernel

theorem test_rechargeExpiry : waiting.resetHeld = false ∧ ready.rechargeTimer = none
    ∧ (tget (after .rechargeExpiry waiting).points 127).state = .moving ∧ throwsInMotion (after .rechargeExpiry waiting) = 2
    ∧ (after .rechargeExpiry setting).rechargeTimer = none
    ∧ (after .rechargeExpiry (occupy 15 .occupied waiting)).throwQueue = []
    ∧ hasFlag (after .rechargeExpiry (occupy 15 .occupied waiting)) 0 .point = true := by decide +kernel

theorem test_throwTimerExpiry : setting.resetHeld = false ∧ ThrowsSound setting ∧ ChannelsDistinct setting
    ∧ (tget stalled.points 5).state = .failed ∧ (tget ready.points 5).state ≠ .moving :=
  ⟨by decide +kernel, test_sound_setting.throws, test_sound_setting.channels, by decide +kernel, by decide +kernel⟩

/-- The fault filter of district 0 runs. -/
def faulty (s : State) : State := { s with districts := tupd s.districts 0 fun e => { e with faultFilter := some 10 } }

/-- District 0 has tripped; and its retry has begun. -/
def tripped : State := run [.faultFilterExpiry 0] (faulty ready)
def retried : State := run [.retryTimerExpiry 0] tripped

theorem test_faultFilterExpiry : (faulty ready).resetHeld = false ∧ DistrictsSound (faulty ready)
    ∧ (tget (faulty ready).districts 0).state = .normal ∧ (tget (faulty ready).districts 0).faultFilter ≠ none
    ∧ (tget tripped.districts 0).state = .tripped ∧ (tget tripped.sections 255).occ = .unknown
    ∧ (tget ready.districts 0).faultFilter = none :=
  ⟨rfl, (trackTest_of (by decide +kernel)).2.1, by decide +kernel, by decide +kernel, by decide +kernel, by decide +kernel,
    by decide +kernel⟩

/-- District 0 in the confirm window with a number of retries behind it. -/
def window (n : Nat) : State := faulty { retried with districts := tupd retried.districts 0 fun e => { e with retryCount := n } }

theorem test_retries : tripped.resetHeld = false ∧ (tget tripped.districts 0).retryTimer = some 5000
    ∧ (tget retried.districts 0).confirmWindow = some 1000
    ∧ (tget (after (.confirmWindowExpiry 0) retried).districts 0).state = .normal
    ∧ (tget (after (.faultFilterExpiry 0) (window 0)).districts 0).retryCount = 1
    ∧ (tget (after (.faultFilterExpiry 0) (window 1)).districts 0).state = .tripped
    ∧ (tget (after (.faultFilterExpiry 0) (window 2)).districts 0).state = .lockedOut
    ∧ (tget ready.districts 0).retryTimer = none ∧ (tget ready.districts 0).confirmWindow = none := by decide +kernel

/-- District 0 is locked out; and so, with its board away. -/
def lockedOut : State := run [.faultFilterExpiry 0] (window 2)

theorem test_restoreDistrict : gives ready [(.restoreDistrict 0 7 0, .wrongState), (.restoreDistrict 0 7 7, .noSuchItem),
      (.restoreDistrict 0 7 8, .badRequest)] ∧ gives (polling 14 ready) [(.restoreDistrict 14 7 0, .notPermitted)]
    ∧ gives lockedOut [(.restoreDistrict 0 7 0, .done)]
    ∧ (tget (after (.restoreDistrict 0 7 0) lockedOut).districts 0).state = .normal
    ∧ (tget (after (.restoreDistrict 0 7 0) { lockedOut with
        boards := tupd lockedOut.boards 3 fun b => { b with state := .failed } }).districts 0).state = .tripped := by decide +kernel

/-! ### Routes -/

theorem test_sound_opened : AllSound opened := allSound_of_test (by decide +kernel)

/-- Route 0 is OPEN, its points having stood right. -/
def overlapping : State := run [.setRoute 0 7 1 (.signal 2)] (pointAt 5 .reverse ready)

theorem test_sound_overlapping : AllSound overlapping := allSound_of_test (by decide +kernel)

/-- A live reservation has a definition, and satisfies a test. -/
def defines (s : State) (r : ResId) (d : RouteDef) (p : Reservation → Bool) : Bool :=
  match resDef s r with
  | some x => decide (x.2 = d) && p x.1
  | none => false

theorem defines_of {s : State} {r : ResId} {d : RouteDef} {p : Reservation → Bool} (h : defines s r d p = true) :
    ∃ v, resDef s r = some (v, d) ∧ p v = true := by
  unfold defines at h
  split at h
  · rename_i x e
    rw [Bool.and_eq_true] at h
    exact ⟨x.1, by rw [e, ← of_decide_eq_true h.1], h.2⟩
  · cases h

theorem noDeck {s : State} {d : RouteDef} (h : deckReq d = none) : DeckPasses s d := fun q e => by
  rw [h] at e
  cases e

theorem test_setRoute : gives ready [(.setRoute 0 7 127 .boundary, .noSuchRoute), (.setRoute 0 7 128 .boundary, .badRequest),
      (.setRoute 0 7 1 (.signal 127), .noSuchRoute), (.setRoute 0 7 1 (.signal 128), .badRequest), (.setRoute 0 7 1 .other, .badRequest)]
    ∧ gives { ready with slots := tupd ready.slots 0 fun e => { e with writing := true } } [(.setRoute 0 7 1 (.signal 2), .busy)]
    ∧ gives (polling 14 ready) [(.setRoute 14 7 1 (.signal 2), .outOfTerritory)]
    ∧ gives opened [(.setRoute 0 7 2 .boundary, .conflict)]
    ∧ gives { ready with reservations := tall 64 (getRes opened 0) } [(.setRoute 0 7 1 (.signal 2), .tableFull)] := by decide +kernel

theorem test_found_main : RouteFound 0 ready 0 mainRoute :=
  ⟨test_asks_ready, test_sound_ready, by decide +kernel, by decide +kernel, Or.inl rfl, by decide +kernel, ⟨0, by decide +kernel⟩⟩

theorem test_found_after_opened : RouteFound 0 opened 0 mainRoute :=
  ⟨asks_of (by decide +kernel), test_sound_opened, by decide +kernel, by decide +kernel, Or.inl rfl,
    by decide +kernel, ⟨63, by decide +kernel⟩⟩

theorem test_setRouteChecksTheTrack :
    resultOf (.setRoute 0 7 1 (.signal 2)) opened = some (.conflict, .item (.res 0))
    ∧ resultOf (.setRoute 0 7 1 (.signal 2)) (occupy 12 .occupied ready) = some (.occupied, .item (.sec 12))
    ∧ resultOf (.setRoute 0 7 1 (.signal 2)) (occupy 14 .unknown ready) = some (.occupied, .item (.sec 14))
    ∧ gives { ready with points := tupd ready.points 5 fun e => { e with lock := .res 63 } } [(.setRoute 0 7 1 (.signal 2), .locked)]
    ∧ gives (run [.throwPoint 0 7 5 (some .reverse)] ready) [(.setRoute 0 7 1 (.signal 2), .pointBusy)]
    ∧ gives (pointAt 6 .failed ready) [(.setRoute 0 7 1 (.signal 2), .itemFailed)]
    ∧ gives { ready with throwQueue := queued 32 } [(.setRoute 0 7 1 (.signal 2), .queueFull)]
    ∧ gives { ready with throwQueue := queued 31 } [(.setRoute 0 7 1 (.signal 2), .accepted)] := by decide +kernel

/-- The turntable with something changed. -/
def deck (f : Turntable → Turntable) : State := { ready with tt := f ready.tt }

/-- A move queue of a length, of OPERATOR moves to position 1. -/
def moves (n : Nat) : List Move := (List.range n).map fun k => ⟨BitVec.ofNat 8 k, .operator 0, some 1, none, none⟩

theorem test_setRouteChecksTheDeck : gives ready [(.setRoute 0 7 3 .boundary, .accepted)]
    ∧ gives (deck fun t => { t with deckLock := .held 63 }) [(.setRoute 0 7 3 .boundary, .locked)]
    ∧ gives (deck fun t => { t with state := .failed, position := none }) [(.setRoute 0 7 3 .boundary, .itemFailed)]
    ∧ gives (deck fun t => { t with queue := moves 8 }) [(.setRoute 0 7 3 .boundary, .queueFull)]
    ∧ gives (deck fun t => { t with queue := moves 8, position := some 3 }) [(.setRoute 0 7 3 .boundary, .accepted)]
    ∧ gives (deck fun t => { t with queue := moves 7 }) [(.setRoute 0 7 3 .boundary, .accepted)] := by decide +kernel

theorem passes_of {s : State} {a : SignalId} {n : SectionId}
    (h : decide ((tget s.sections n).lock = none ∧ (tget s.sections n).occ = .clear) = true) : SectionPasses s a .main n :=
  ⟨fun l e => (by rw [(of_decide_eq_true h).1] at e; cases e), (of_decide_eq_true h).2⟩

theorem test_aRouteThatIsAccepted : (∀ k ∈ (mainRoute.path ++ mainRoute.overlap).map (·.sec), SectionPasses ready 1 .main k)
    ∧ (∀ p ∈ elemPoints (mainRoute.path ++ mainRoute.overlap), PointPasses ready 1 p) ∧ DeckPasses ready mainRoute
    ∧ ready.throwQueue.length + (routeThrows ready mainRoute).length ≤ 32 ∧ takenOver ready 1 = none
    ∧ getRes ready 0 = none ∧ (∀ q, getRes ready q = none → (0 : ResId) ≤ q) := by
  refine ⟨fun k h => ?_, fun p h => ?_, noDeck (by decide +kernel), by decide +kernel, by decide +kernel, by decide +kernel,
    fun q _ => Fin.zero_le q⟩
  · have h : k = 12 ∨ k = 13 ∨ k = 14 := by simpa [mainRoute] using h
    rcases h with h | h | h <;> subst h <;> exact passes_of (by decide +kernel)
  · have h : p = 5 ∨ p = 6 := by simpa [mainRoute, elemPoints] using h
    have f : (tget ready.points 5).lock = .free ∧ (tget ready.points 6).lock = .free := by decide +kernel
    rcases h with h | h <;> subst h
    · exact ⟨fun r e => (by rw [f.1] at e; cases e), by decide +kernel, by decide +kernel⟩
    · exact ⟨fun r e => (by rw [f.2] at e; cases e), by decide +kernel, by decide +kernel⟩

theorem test_found_after_overlapping : RouteFound 0 overlapping 511 edgeRoute :=
  ⟨asks_of (by decide +kernel), test_sound_overlapping, by decide +kernel, by decide +kernel, Or.inl rfl,
    by decide +kernel, ⟨63, by decide +kernel⟩⟩

theorem test_anOverlapThatIsTakenOver : ∃ w, (∀ k ∈ (edgeRoute.path ++ edgeRoute.overlap).map (·.sec),
      SectionPasses overlapping 2 .main k)
    ∧ (∀ p ∈ elemPoints (edgeRoute.path ++ edgeRoute.overlap), PointPasses overlapping 2 p) ∧ DeckPasses overlapping edgeRoute
    ∧ takenOver overlapping 2 = some 0 ∧ resDef overlapping 0 = some (w, mainRoute)
    ∧ resultOf (.setRoute 0 7 2 .boundary) overlapping = some (.accepted, .created 1 .opened) := by
  have t : takenOver overlapping 2 = some 0 := by decide +kernel
  obtain ⟨w, d, _⟩ := defines_of (s := overlapping) (r := 0) (d := mainRoute) (p := fun _ => true) (by decide +kernel)
  refine ⟨w, fun k h => ?_, fun p h => ?_, noDeck (by decide +kernel), t, d, by decide +kernel⟩
  · have h : k = 14 ∨ k = 15 := by simpa [edgeRoute] using h
    rcases h with h | h <;> subst h
    · have e : (tget overlapping.sections 14).lock = some ⟨0, .overlap 0⟩ := by decide +kernel
      exact ⟨fun l g => by rw [e] at g; cases g; exact ⟨rfl, t⟩, by decide +kernel⟩
    · exact passes_of (by decide +kernel)
  · have h : p = 6 := by simpa [edgeRoute, elemPoints] using h
    subst h
    have e : (tget overlapping.points 6).lock = .res 0 := by decide +kernel
    exact ⟨fun r g => ⟨0, w, mainRoute, t, d, by decide⟩, by decide +kernel, by decide +kernel⟩

/-- Route 0 with an overlap of three elements, OPEN. -/
def wideRoute : RouteDef :=
  { mainRoute with overlap := mainRoute.overlap ++ [⟨15, some ⟨127, .normal⟩, none⟩, ⟨255, none, none⟩] }
def wide (s : State) : State := run [.setRoute 0 7 1 (.signal 2)] (addRoute 0 wideRoute (pointAt 5 .reverse s))

/-- The overlap that route 511 takes over is left unlocked where the route does not use it. -/
theorem test_whatIsLeftOfAnOverlap : AllSound (wide ready) ∧ takenOver (wide ready) 2 = some 0 ∧ takenOver (wide ready) 1 = none
    ∧ ((getRes (wide ready) 0).map (·.state)) = some .opened
    ∧ (let s := after (.setRoute 0 7 2 .boundary) (wide ready)
      ((tget s.sections 255).lock, (tget s.points 127).lock, (tget s.points 6).lock) = (none, .free, .res 1)
        ∧ (tget s.sections 15).lock = some ⟨1, .path 1⟩ ∧ ((getRes s 0).map (·.state)) = some .opened) :=
  ⟨allSound_of_test (by decide +kernel), by decide +kernel, by decide +kernel, by decide +kernel, by decide +kernel⟩

theorem test_setThroughRoute : gives ready [(.setThroughRoute 0 7 [1], .badRequest), (.setThroughRoute 0 7 [1, 2, 3, 4, 5, 6], .badRequest),
      (.setThroughRoute 0 7 [1, 128], .badRequest), (.setThroughRoute 0 7 [1, 2], .done), (.setThroughRoute 0 7 [127, 2], .noSuchRoute)]
    ∧ resultOf (.setThroughRoute 0 7 [1, 2, 127, 3, 1]) ready = some (.noSuchRoute, .through [0] 3 (some 1) none) := by decide +kernel

theorem test_cancelRoute : gives ready [(.cancelRoute 0 7 63, .noSuchItem), (.cancelRoute 0 7 64, .badRequest)]
    ∧ gives (polling 14 opened) [(.cancelRoute 14 7 0, .notPermitted)]
    ∧ gives opened [(.cancelRoute 0 7 0, .done)] ∧ gives (occupy 13 .occupied opened) [(.cancelRoute 0 7 0, .accepted)]
    ∧ gives (run [.cancelRoute 0 7 0] (occupy 13 .occupied opened)) [(.cancelRoute 0 7 0, .wrongState)] := by decide +kernel

/-- The reservation of route 511, OPEN with its approach occupied. -/
def approached : State := occupy 13 .occupied opened

theorem test_sound_approached : AllSound approached := allSound_of_test (by decide +kernel)

theorem test_aCancelOfASetRoute :
    (∃ v, resDef opened 0 = some (v, edgeRoute) ∧ decide (v.state = .opened ∧ v.hasBeenOpen = true) = true)
    ∧ (∃ n ∈ edgeRoute.approach, (tget approached.sections n).occ ≠ .clear)
    ∧ (¬ ∃ n ∈ edgeRoute.approach, (tget opened.sections n).occ ≠ .clear) :=
  ⟨defines_of (by decide +kernel), by decide +kernel, by decide +kernel⟩

/-- A reservation with something changed. -/
def resWith (r : ResId) (f : Reservation → Reservation) (s : State) : State := updRes r f s

/-- Route 0 is SETTING, its signal having been open, with a train before it. -/
def seen (s : State) : State := occupy 11 .occupied (resWith 0 (fun v => { v with hasBeenOpen := true }) s)

theorem test_sound_seen : AllSound (seen setting) ∧ AllSound (seen stalled) :=
  ⟨allSound_of_test (by decide +kernel), allSound_of_test (by decide +kernel)⟩

theorem test_aCancelWhileSetting : resultOf (.cancelRoute 0 7 0) setting = some (.accepted, .cancelling 1 false)
    ∧ resultOf (.cancelRoute 0 7 0) stalled = some (.done, .retired)
    ∧ resultOf (.cancelRoute 0 7 0) (seen setting) = some (.accepted, .held 30)
    ∧ resultOf (.cancelRoute 0 7 0) (seen stalled) = some (.accepted, .held 30)
    ∧ throwsInFlight setting 0 = [5] ∧ throwsInFlight stalled 0 = [] := by decide +kernel

theorem test_emergencyRelease : gives ready [(.emergencyRelease 0 7 63, .noSuchItem), (.emergencyRelease 0 7 64, .badRequest)]
    ∧ gives (polling 14 opened) [(.emergencyRelease 14 7 0, .notPermitted)]
    ∧ resultOf (.emergencyRelease 0 7 0) opened = some (.accepted, .emergency 120000)
    ∧ gives (run [.emergencyRelease 0 7 0] opened) [(.emergencyRelease 0 7 0, .wrongState)] := by decide +kernel

theorem test_retryRoute : gives ready [(.retryRoute 0 7 63, .noSuchItem), (.retryRoute 0 7 64, .badRequest)]
    ∧ gives (polling 14 stalled) [(.retryRoute 14 7 0, .notPermitted)] ∧ gives opened [(.retryRoute 0 7 0, .wrongState)]
    ∧ gives setting [(.retryRoute 0 7 0, .done)] ∧ resultOf (.retryRoute 0 7 0) stalled = some (.accepted, .retried 1 false)
    ∧ gives { stalled with throwQueue := queued 32 } [(.retryRoute 0 7 0, .queueFull)]
    ∧ gives { stalled with throwQueue := queued 31, rechargeTimer := some 1 } [(.retryRoute 0 7 0, .accepted)] := by decide +kernel

/-- The deck route has the deck, and its move is not in the queue. -/
def misaligned (n : Nat) : State :=
  let s := run [.setRoute 0 7 3 .boundary] ready
  { s with tt := { s.tt with state := .idle, current := none, queue := moves n } }

theorem test_retryOfADeckMove : gives (misaligned 8) [(.retryRoute 0 7 0, .queueFull)]
    ∧ resultOf (.retryRoute 0 7 0) (misaligned 7) = some (.accepted, .retried 0 true) := by decide +kernel

/-- The deck route has the deck at rest away from its road, and its move is not in the queue; a section is occupied. -/
def deckAway (n : SectionId) : State :=
  let s := misaligned 2
  occupy n .occupied { s with tt := { s.tt with stageTimer := none } }

def retried0 (n : SectionId) : Turntable := (after (.retryRoute 0 7 0) (deckAway n)).tt

/-- The deck move of a retried route is placed before the others, and starts where it may. -/
theorem test_theMoveOfARetry : AllSound (deckAway 255) ∧ AllSound (deckAway 21)
    ∧ ((resDef (deckAway 21) 0).map fun x => retryMove (deckAway 21) 0 x.1 x.2) = some (some 3)
    ∧ (retried0 255).state = .unbolting ∧ ((retried0 255).current.map (·.kind)) = some (.interlocking (some 0))
    ∧ (retried0 255).queue.map (·.number) = [0, 1] ∧ (retried0 21).state = .idle
    ∧ (retried0 21).queue.map (·.kind) = [.interlocking (some 0), .operator 0, .operator 0] :=
  ⟨allSound_of_test (by decide +kernel), allSound_of_test (by decide +kernel), by decide +kernel, by decide +kernel,
    by decide +kernel, by decide +kernel, by decide +kernel, by decide +kernel⟩

/-- Which points a retry throws, and where a deck is turned to. -/
theorem test_whatARetryGathers : [PointState.failed, .normal, .reverse, .unknown, .moving].map (fun x =>
      needsRetry (pointAt 127 x ready) ⟨127, .normal⟩) = [true, false, true, true, false]
    ∧ needsRetry { pointAt 127 .unknown ready with boards := tall 32 .reset } ⟨127, .normal⟩ = false
    ∧ needsRetry { pointAt 127 .failed ready with throwQueue := [⟨127, .normal, none⟩] } ⟨127, .normal⟩ = false
    ∧ [(1 : RoadId), 9, 10, 16, 22].map (DeckReq.target ⟨3, .either⟩) = [3, 3, 15, 15, 3]
    ∧ DeckReq.target ⟨3, .b⟩ 4 = 15 := by decide +kernel

theorem test_readsOfRoutes : gives opened [(.readReservation 0 7 0, .done), (.readReservation 0 7 63, .noSuchItem),
      (.readReservation 0 7 64, .badRequest), (.readRoutesFromSignal 0 7 (.list 127 0), .done),
      (.readRoutesFromSignal 0 7 (.list 128 0), .badRequest), (.readRoutesFromSignal 0 7 (.list 0 0), .noSuchItem),
      (.readRoutesFromSignal 0 7 (.detail 2 511), .done), (.readRoutesFromSignal 0 7 (.detail 2 512), .badRequest),
      (.readRoutesFromSignal 0 7 (.detail 128 0), .badRequest), (.readRoutesFromSignal 0 7 (.detail 0 0), .noSuchItem),
      (.readRoutesFromSignal 0 7 (.detail 2 0), .noSuchRoute)]
    ∧ resultOf (.readRoutesFromSignal 0 7 (.list 2 0)) opened
      = some (.done, .routes 1 [⟨511, .boundary, .main, 2, 0, false, some 0⟩])
    ∧ resultOf (.readRoutesFromSignal 0 7 (.list 2 1)) opened = some (.done, .routes 1 [])
    ∧ gives { ready with loadState := .noImage } [(.readRoutesFromSignal 0 7 (.list 2 0), .notReady)] := by decide +kernel

/-- A train has entered route 0 and reached its last section. -/
def arrived : State := detectorReport 13 true (detectorReport 12 true overlapping)

theorem test_sound_arrived : AllSound arrived := allSound_of_test (by decide +kernel)

theorem test_overlapTimerExpiry : (∃ v, resDef arrived 0 = some (v, mainRoute)
      ∧ decide (v.overlapTimer ≠ none ∧ v.overlapReleased = false ∧ v.state ≠ .setting) = true)
    ∧ ((getRes (after (.overlapTimerExpiry 0) arrived) 0).map (·.overlapReleased)) = some true
    ∧ (tget (after (.overlapTimerExpiry 0) arrived).points 6).lock = .free :=
  ⟨defines_of (by decide +kernel), by decide +kernel, by decide +kernel⟩

/-- Route 511 is held for its approach; and is released in emergency. -/
def approachHeld : State := run [.cancelRoute 0 7 0] approached
def releasing : State := run [.emergencyRelease 0 7 0] opened

theorem test_sound_released : AllSound approachHeld ∧ AllSound releasing :=
  ⟨allSound_of_test (by decide +kernel), allSound_of_test (by decide +kernel)⟩

theorem test_theTimersThatRetire : (∃ v, resDef approachHeld 0 = some (v, edgeRoute)
      ∧ decide (v.approachTimer = some 20000 ∧ v.emergencyTimer = none) = true)
    ∧ (∃ v, resDef releasing 0 = some (v, edgeRoute)
      ∧ decide (v.emergencyTimer = some 120000 ∧ v.approachTimer = none) = true)
    ∧ getRes (after (.approachTimerExpiry 0) approachHeld) 0 = none
    ∧ getRes (after (.emergencyTimerExpiry 0) releasing) 0 = none ∧ getRes ready 63 = none :=
  ⟨defines_of (by decide +kernel), defines_of (by decide +kernel), by decide +kernel, by decide +kernel, by decide +kernel⟩

/-- The demonstration unit holds route 511. -/
def demonstrating (s : State) : State := resWith 0 (fun v => { v with owner := .demo, demoHold := some 1 }) s

theorem test_sound_demonstrating : AllSound (demonstrating opened) ∧ AllSound (demonstrating approached)
    ∧ AllSound (demonstrating setting) :=
  ⟨allSound_of_test (by decide +kernel), allSound_of_test (by decide +kernel), allSound_of_test (by decide +kernel)⟩

theorem test_demonstrationHoldExpiry : (∃ v, resDef (demonstrating opened) 0 = some (v, edgeRoute) ∧ v.demoHold.isSome = true)
    ∧ getRes (after (.demonstrationHoldExpiry 0) (demonstrating opened)) 0 = none
    ∧ ((getRes (after (.demonstrationHoldExpiry 0) (demonstrating approached)) 0).map (·.state)) = some .approachHeld
    ∧ ((getRes (after (.demonstrationHoldExpiry 0) (demonstrating setting)) 0).map (·.state)) = some .setting :=
  ⟨defines_of (by decide +kernel), by decide +kernel, by decide +kernel, by decide +kernel⟩

/-! ### Trains -/

def interpose (sec loco n : Nat) (f : Option DeckEnd) : Instr :=
  .interposeTrain 0 7 sec headcode (some .goods) loco (List.replicate n 0x41) f

/-- Section 255 and the deck section are OCCUPIED. -/
def occupied : State := occupy 20 .occupied (occupy 255 .occupied ready)

/-- Train 0 stands in section 255; and train 1 on the deck. -/
def trained : State := run [interpose 255 9999 16 none, interpose 20 0 0 (some .b)] occupied

/-- Every entry of the train table is taken. -/
def crowded (s : State) : State := { s with trains := tall 48 (some ⟨headcode, none, .goods, none, none, [], false, false⟩) }

theorem test_interposeTrain : gives occupied [(interpose 255 9999 16 none, .done), (interpose 256 0 0 none, .badRequest),
      (interpose 255 10000 0 none, .badRequest), (interpose 255 0 17 none, .badRequest), (interpose 0 0 0 none, .noSuchItem),
      (interpose 255 0 0 (some .a), .badRequest), (interpose 20 0 0 none, .badRequest), (interpose 11 0 0 none, .occupied),
      (.interposeTrain 0 7 255 headcode none 0 [] none, .badRequest)]
    ∧ gives trained [(interpose 255 0 0 none, .conflict)] ∧ gives (crowded occupied) [(interpose 255 0 0 none, .tableFull)] := by
  decide +kernel

theorem test_enterTrainOffLayout : gives ready [(.enterTrainOffLayout 0 7 headcode (some .goods) 9999 (List.replicate 16 0x41), .done),
      (.enterTrainOffLayout 0 7 headcode (some .goods) 10000 [], .badRequest), (.enterTrainOffLayout 0 7 headcode none 0 [], .badRequest),
      (.enterTrainOffLayout 0 7 headcode (some .goods) 0 (List.replicate 17 0x41), .badRequest)]
    ∧ gives (crowded ready) [(.enterTrainOffLayout 0 7 headcode (some .goods) 0 [], .tableFull)] := by decide +kernel

theorem test_theLowestFreeEntry : LowestFree trained.trains 2 ∧ HeadsSound trained :=
  ⟨by unfold LowestFree; decide +kernel, (trackTest_of (by decide +kernel)).2.2.2.2.1⟩

theorem test_moveTrain : gives trained [(.moveTrain 0 7 48 255 none, .badRequest), (.moveTrain 0 7 0 256 none, .badRequest),
      (.moveTrain 0 7 47 255 none, .noSuchItem), (.moveTrain 0 7 0 0 none, .noSuchItem), (.moveTrain 0 7 0 255 (some .a), .badRequest),
      (.moveTrain 0 7 0 20 none, .badRequest), (.moveTrain 0 7 0 11 none, .occupied), (.moveTrain 0 7 0 255 none, .done),
      (.moveTrain 0 7 0 20 (some .a), .conflict)]
    ∧ gives (occupy 11 .occupied trained) [(.moveTrain 0 7 0 11 none, .done)]
    ∧ (tget (after (.moveTrain 0 7 0 11 none) (occupy 11 .occupied trained)).trains 0).bind (·.head) = some 11 := by decide +kernel

/-- Train 0 is announced, and is the train of a reservation. -/
def announced : State :=
  run [.announce 0 7 3 0 2 [0x31, 0x32, 0x3A, 0x33, 0x30] none] (resWith 0 (fun v => { v with train := some 0 })
    (run [.setRoute 0 7 2 .boundary] trained))

theorem test_sound_announced : RoutesSound announced ∧ ListsSound announced ∧ HeadsSound announced :=
  ⟨routesTest_of (by decide +kernel), listsTest_of (by decide +kernel), (trackTest_of (by decide +kernel)).2.2.2.2.1⟩

theorem test_deleteTrain : gives trained [(.deleteTrain 0 7 47, .noSuchItem), (.deleteTrain 0 7 48, .badRequest)]
    ∧ resultOf (.deleteTrain 0 7 0) announced = some (.done, .cleared 1)
    ∧ ((tget (after (.deleteTrain 0 7 0) announced).announcements 0).map (·.state)) = some .cancelled
    ∧ ((tget announced.announcements 0).map fun a => (a.train, a.state)) = some (some 0, .ready) := by decide +kernel

def edit (e : TrainEdit) : Instr := .editTrain 0 7 0 e

theorem test_editTrain : gives trained [(.editTrain 0 7 48 ⟨some headcode, none, none, none, none, false⟩, .badRequest),
      (.editTrain 0 7 47 ⟨some headcode, none, none, none, none, false⟩, .noSuchItem),
      (edit ⟨none, none, none, none, none, false⟩, .badRequest), (edit ⟨none, some none, none, none, none, false⟩, .badRequest),
      (edit ⟨none, none, some 9999, none, none, false⟩, .done), (edit ⟨none, none, some 10000, none, none, false⟩, .badRequest),
      (edit ⟨none, none, none, some (List.replicate 16 0x41), none, true⟩, .done),
      (edit ⟨none, none, none, some (List.replicate 17 0x41), none, false⟩, .badRequest),
      (edit ⟨none, none, none, none, some .a, false⟩, .wrongState),
      (.editTrain 0 7 1 ⟨none, none, some 0, none, some .a, false⟩, .done)]
    ∧ gives (polling 14 trained) [(.editTrain 14 7 0 ⟨none, none, none, none, none, true⟩, .notPermitted)] := by decide +kernel

theorem test_readsOfTrains : gives trained [(.readTrain 0 7 0, .done), (.readTrain 0 7 47, .noSuchItem), (.readTrain 0 7 48, .badRequest),
      (.findTrain 0 7 ⟨#[0x32, 0x41, 0x30, 0x35], rfl⟩, .noSuchItem)]
    ∧ resultOf (.findTrain 0 7 headcode) trained
      = some (.done, .trains [⟨0, some 255, false, false⟩, ⟨1, some 20, false, false⟩]) := by decide +kernel

/-! ### The turntable -/

theorem test_turntableMove : gives ready [(.turntableMove 0 7 3 (some .a), .accepted), (.turntableMove 0 7 23 (some .b), .accepted),
      (.turntableMove 0 7 24 (some .a), .badRequest), (.turntableMove 0 7 3 none, .badRequest),
      (.turntableMove 0 7 0 (some .a), .noSuchItem), (.turntableMove 0 7 3 (some .front), .noSuchItem)]
    ∧ gives trained [(.turntableMove 0 7 3 (some .rear), .accepted), (.turntableMove 0 7 23 (some .front), .accepted)]
    ∧ gives { trained with trains := tupd trained.trains 1 (Option.map fun v => { v with facing := none }) }
      [(.turntableMove 0 7 3 (some .front), .wrongState)]
    ∧ gives (polling 14 ready) [(.turntableMove 14 7 3 (some .a), .outOfTerritory)]
    ∧ gives (deck fun t => { t with state := .failed, position := none }) [(.turntableMove 0 7 3 (some .a), .itemFailed)]
    ∧ gives (deck fun t => { t with deckLock := .promised 63 }) [(.turntableMove 0 7 3 (some .a), .locked)]
    ∧ gives (deck fun t => { t with queue := moves 8 }) [(.turntableMove 0 7 3 (some .a), .queueFull)]
    ∧ gives (deck fun t => { t with queue := moves 7 }) [(.turntableMove 0 7 3 (some .a), .accepted)]
    ∧ gives (deck fun t => { t with cfg := none }) [(.turntableMove 0 7 3 (some .a), .noSuchItem)] := by decide +kernel

/-- A move runs; and another waits behind it. -/
def unbolting : State := run [.turntableMove 0 7 3 (some .a)] ready
def turntableBusy : State := run [.turntableMove 0 7 23 (some .b)] unbolting

theorem test_theHeadMove : (unbolting.tt.state, unbolting.tt.stageTimer, unbolting.tt.queue) = (.unbolting, some 2000, [])
    ∧ (considerMove (deck fun t => { t with queue := moves 1, position := some 1 })).tt.queue = []
    ∧ (considerMove (deck fun t => { t with queue := moves 1, position := some 1 })).tt.state = .idle
    ∧ (considerMove (deck fun t => { t with queue := moves 1 })).tt.state = .unbolting
    ∧ (considerMove (deck fun t => { t with queue := [⟨255, .operator 0, none, some ⟨47, true, 23⟩, none⟩] })).tt.queue = []
    ∧ (considerMove (occupy 21 .unknown (deck fun t => { t with queue := moves 1 }))).tt.queue = moves 1
    ∧ considerMove ready = ready ∧ HeadsSound ready :=
  ⟨by decide +kernel, by decide +kernel, by decide +kernel, by decide +kernel, by decide +kernel, by decide +kernel, rfl,
    test_sound_ready.heads⟩

theorem test_aMoveThatMayStart : MayStart ready ⟨0, .operator 0, some 23, none, none⟩ ∧ TargetAtStart ready ⟨0, .operator 0, some 23, none, none⟩ 23
    ∧ TargetAtStart trained ⟨0, .operator 0, none, some ⟨1, true, 3⟩, none⟩ 15 := by
  have h : (ready.tt.current = none ∧ ready.tt.state = .idle ∧ ready.tt.deckLock = .free ∧ (tget ready.sections 21).occ = .clear
    ∧ (tget ready.sections 22).occ = .clear ∧ (tget ready.sections 20).occ = .clear) := by decide +kernel
  have w : deckSection trained = some 20 ∧ ((tget trained.trains 1).bind (·.head) = some 20)
      ∧ ((tget trained.trains 1).bind (·.facing) = some .b) := by decide +kernel
  refine ⟨⟨_, rfl, h.1, h.2.1, h.2.2.1, h.2.2.2.1, h.2.2.2.2.1, Or.inl h.2.2.2.2.2⟩, rfl, ?_⟩
  cases e : tget trained.trains 1 with
  | none => rw [e] at w; simp at w
  | some v =>
    rw [e] at w
    exact ⟨20, v, .b, w.1, e, w.2.1, w.2.2, rfl⟩

/-- The inputs of the TURNTABLE board, with an index count. -/
def inputs (b : BoltInput) (k : BitVec 8) (datum : Bool) : TurntableInputs := ⟨b, true, k, datum, false⟩

/-- The record after a report, from a state of the turntable with an index count of 255. -/
def reported (s : State) (i : TurntableInputs) : Turntable :=
  (turntableReport 4 i { s with tt := { s.tt with lastIndexCount := some 255 } }).tt

/-- The deck turns clockwise from a position to 3. -/
def turning (p : RoadId) : State :=
  let s := { unbolting with tt := { unbolting.tt with state := .turning, position := some p } }
  { s with boards := tupd s.boards 4 fun b => { b with image := { b.image with ttDrive := .clockwise } } }

/-- The bolt is driven in at position 3. -/
def bolting : State := { unbolting with tt := { unbolting.tt with state := .bolting, position := some 3 } }

theorem test_turntableReports : (reported unbolting (inputs .isOut 255 true)).state = .turning
    ∧ (reported unbolting (inputs .isOut 0 true)).state = .failed ∧ (reported unbolting (inputs .between 255 true)).state = .unbolting
    ∧ (reported ready (inputs .isIn 255 true)).state = .idle ∧ (reported ready (inputs .isIn 0 true)).state = .failed
    ∧ (reported ready (inputs .between 255 true)).state = .failed
    ∧ (reported (turning 0) (inputs .isOut 0 false)).position = some 1 ∧ (reported (turning 0) (inputs .isOut 0 true)).state = .failed
    ∧ (reported (turning 0) (inputs .isOut 2 false)).state = .bolting ∧ (reported (turning 0) (inputs .isOut 3 false)).state = .failed
    ∧ (reported (turning 0) (inputs .isOut 255 false)).state = .turning
    ∧ (reported bolting (inputs .isIn 255 false)).state = .idle ∧ (reported bolting (inputs .isIn 0 false)).state = .failed
    ∧ (reported unbolting { inputs .isOut 255 true with fault := true }).state = .failed := by decide +kernel

theorem test_turntableHome : gives ready [(.turntableHome 0 7, .wrongState)]
    ∧ gives (polling 14 ready) [(.turntableHome 14 7, .notPermitted)]
    ∧ gives (deck fun t => { t with cfg := none }) [(.turntableHome 0 7, .noSuchItem)]
    ∧ gives (deck fun t => { t with state := .failed, position := none }) [(.turntableHome 0 7, .accepted)]
    ∧ resultOf (.turntableHome 0 7) (occupy 22 .unknown (deck fun t => { t with state := .unknown, position := none }))
      = some (.occupied, .item (.sec 22))
    ∧ resultOf (.turntableHome 0 7) (occupy 22 .unknown (occupy 21 .occupied (deck fun t => { t with state := .unknown, position := none })))
      = some (.occupied, .item (.sec 21))
    ∧ resultOf (.turntableHome 0 7) (occupy 20 .occupied (deck fun t => { t with state := .unknown, position := none }))
      = some (.occupied, .item (.sec 20))
    ∧ gives { deck (fun t => { t with state := .failed, position := none }) with boards := tall 32 .reset }
      [(.turntableHome 0 7, .itemFailed)] := by decide +kernel

theorem test_withdrawMove : gives turntableBusy [(.withdrawMove 0 7 0, .wrongState), (.withdrawMove 0 7 1, .done),
      (.withdrawMove 0 7 255, .noSuchItem), (.withdrawMove 0 7 256, .badRequest)]
    ∧ gives (polling 14 turntableBusy) [(.withdrawMove 14 7 1, .notPermitted)]
    ∧ gives (deck fun t => { t with state := .failed, queue := [⟨255, .interlocking (some 63), some 0, none, none⟩] })
      [(.withdrawMove 0 7 255, .wrongState)]
    ∧ gives (deck fun t => { t with state := .failed, queue := [⟨255, .demo 0, some 0, none, none⟩] })
      [(.withdrawMove 0 7 255, .done)] := by decide +kernel

/-- A move at the head waits, the pit being occupied. -/
def held : State := run [.turntableMove 0 7 3 (some .a)] (occupy 21 .occupied ready)

theorem test_waitTimerExpiry : held.resetHeld = false ∧ ready.tt.queue = []
    ∧ (held.tt.queue.map (·.waitTimer)) = [some 60000] ∧ (after .waitTimerExpiry held).tt.queue = []
    ∧ (after .waitTimerExpiry (deck fun t => { t with queue := moves 1 })).tt.queue = moves 1 := by decide +kernel

theorem test_theTurntableStops : gives ready [(.turntableReset 0 7, .done)] ∧ gives (polling 14 ready) [(.turntableReset 14 7, .notPermitted)]
    ∧ gives (deck fun t => { t with cfg := none }) [(.turntableReset 0 7, .noSuchItem)]
    ∧ (after (.turntableReset 0 7) unbolting).tt.interrupted = true ∧ (after (.turntableReset 0 7) ready).tt.interrupted = false
    ∧ (after .stageTimerExpiry unbolting).tt.state = .failed ∧ (after .stageTimerExpiry ready).tt.state = .idle
    ∧ ready.tt.stageTimer = none ∧ unbolting.tt.stageTimer ≠ none := by decide +kernel

/-! ### Frames -/

/-- The CRC's check value over the characters 1 to 9. -/
theorem test_crcCheckValue : crc16 [0x31, 0x32, 0x33, 0x34, 0x35, 0x36, 0x37, 0x38, 0x39] = 0x29B1 := by decide +kernel

/-- The POLL of station 3, an IDLE of it, a READ STATUS with tag 7, and a request whose code is not in the catalogue. -/
theorem test_framesWrittenOut :
    frameBytes (pollFrame 3) = [0x5A, 0x83, 0x01, 0x00, 0x00, 0xF5, 0x14]
    ∧ readFrame [0x5A, 0x83, 0x01, 0x00, 0x00, 0xF5, 0x14] = some (pollFrame 3)
    ∧ replyRow 3 [0x5A, 0x03, 0x03, 0x07, 0x01, 0x62, 0x9E, 0x47] = some (.readStatus 3 7)
    ∧ replyRow 3 [0x5A, 0x03, 0x03, 0x07, 0x01, 0x70, 0xAC, 0x34] = some (.unknownRequest 3 7 0x70)
    ∧ replyRow 4 [0x5A, 0x03, 0x03, 0x07, 0x01, 0x62, 0x9E, 0x47] = some .panelBadReply
    ∧ replyRow 3 [0x5A, 0x03, 0x03, 0x07, 0x01, 0x62, 0x9E, 0x46] = some .panelBadReply
    ∧ panelReply 14 (frameBytes ⟨0x0E, 0x02, 0x00, []⟩) = .idle := by decide +kernel

theorem test_fieldAnswers :
    answerGood (.refresh 31) 9 (frameBytes ⟨0x20, 0x12, 9, [0x01]⟩) = true
    ∧ answerGood (.refresh 31) 9 (frameBytes ⟨0x20, 0x12, 8, [0x01]⟩) = false
    ∧ answerGood (.line 5 7 []) 9 (frameBytes ⟨0x06, 0x16, 9, [0x07]⟩) = true
    ∧ answerGood (.line 5 7 []) 9 (frameBytes ⟨0x06, 0x16, 9, [0x06]⟩) = false := by decide +kernel

/-- A payload of the greatest length meets the hypothesis of the frame statement. -/
theorem test_longestPayload : (List.replicate 96 (0 : Byte)).length ≤ 96 := by decide

/-! ### Departure boards and buttons -/

def time : List Byte := [0x31, 0x32, 0x3A, 0x33, 0x30]

def announce (b t x : Nat) (l : List Byte) (d : Option (List Byte)) : Instr := .announce 0 7 b t x l d

/-- A board's list of a length. -/
def listed (n : Nat) (s : State) : State :=
  { s with
    depBoards := tupd s.depBoards 3 fun b => { b with list := (List.range n).map (Fin.ofNat 32) }
    announcements := Vector.ofFn fun i =>
      if i.val < n then some ⟨3, none, headcode, 2, time, [], .own, .cancelled, some 1⟩ else none }

theorem test_announce : gives trained [(announce 3 0 127 time (some (List.replicate 16 0x41)), .done), (announce 4 0 2 time none, .badRequest),
      (announce 3 47 2 time none, .noSuchItem), (announce 3 48 2 time none, .badRequest), (announce 3 0 128 time none, .badRequest),
      (announce 3 0 0 time none, .noSuchItem), (announce 0 0 2 time none, .noSuchItem), (announce 3 0 2 (time ++ [0x30]) none, .badRequest),
      (announce 3 0 2 time.tail none, .badRequest), (announce 3 0 2 time (some (List.replicate 17 0x41)), .badRequest)]
    ∧ gives (polling 14 trained) [(.announce 14 7 3 0 2 time none, .outOfTerritory)]
    ∧ resultOf (announce 3 0 2 time none) announced = some (.conflict, .item (.ann 0))
    ∧ resultOf (announce 3 0 2 time none) (listed 7 trained) = some (.done, .announced 7 7)
    ∧ resultOf (announce 3 0 2 time none) (listed 8 trained) = some (.tableFull, .item (.depBoard 3))
    ∧ resultOf (announce 3 0 2 time none) { listed 7 trained with announcements := tall 32 (tget (listed 7 trained).announcements 0) }
      = some (.tableFull, .item .announcementTable) := by decide +kernel

def editAnn (n : Nat) (e : AnnEdit) : Instr := .editAnnouncement 0 7 n e

/-- The announcement is CANCELLED; and it is WAITING, its route being gone. -/
def cancelled : State := run [.deleteTrain 0 7 0] announced
def annWaiting : State := run [.cancelRoute 0 7 0] announced

theorem test_sound_lists : ListsSound (listed 7 trained) ∧ ListsSound annWaiting :=
  ⟨listsTest_of (by decide +kernel), listsTest_of (by decide +kernel)⟩

theorem test_editAnnouncement : gives annWaiting [(editAnn 32 ⟨some time, none, none⟩, .badRequest), (editAnn 31 ⟨some time, none, none⟩, .noSuchItem),
      (editAnn 0 ⟨none, none, none⟩, .badRequest), (editAnn 0 ⟨some time.tail, none, none⟩, .badRequest),
      (editAnn 0 ⟨none, some (.own (List.replicate 16 0x41)), none⟩, .done), (editAnn 0 ⟨none, some .train, none⟩, .done),
      (editAnn 0 ⟨none, some (.own (List.replicate 17 0x41)), none⟩, .badRequest), (editAnn 0 ⟨none, none, some 127⟩, .done),
      (editAnn 0 ⟨none, none, some 128⟩, .badRequest), (editAnn 0 ⟨none, none, some 0⟩, .noSuchItem)]
    ∧ gives (polling 14 annWaiting) [(.editAnnouncement 14 7 0 ⟨some time, none, none⟩, .outOfTerritory)]
    ∧ gives cancelled [(editAnn 0 ⟨some time, none, none⟩, .wrongState)]
    ∧ resultOf (editAnn 0 ⟨none, none, some 127⟩) announced = some (.done, .annState .waiting) := by decide +kernel

theorem test_anEditThatRepeats :
    gives (run [announce 3 0 127 time none] annWaiting) [(editAnn 0 ⟨none, none, some 127⟩, .conflict)] := by decide +kernel

theorem test_retiredAnnouncements : gives announced [(.withdrawAnnouncement 0 7 0, .done), (.withdrawAnnouncement 0 7 31, .noSuchItem),
      (.withdrawAnnouncement 0 7 32, .badRequest)]
    ∧ gives (polling 14 announced) [(.withdrawAnnouncement 14 7 0, .outOfTerritory)]
    ∧ tget (after (.lingerExpiry 0) cancelled).announcements 0 = none
    ∧ ((tget cancelled.announcements 0).bind (·.linger)) = some 20000
    ∧ ((tget announced.announcements 0).bind (·.linger)) = none ∧ tget ready.announcements 31 = none := by decide +kernel

theorem test_readsOfDisplays : gives announced [(.readTurntable 0 7, .done), (.readBoard 0 7 3 7, .done), (.readBoard 0 7 4 0, .badRequest),
      (.readBoard 0 7 3 8, .badRequest), (.readBoard 0 7 0 0, .noSuchItem), (.readButtons 0 7, .done)]
    ∧ gives (deck fun t => { t with cfg := none }) [(.readTurntable 0 7, .noSuchItem)] := by decide +kernel

/-- Open-day mode is on. -/
def openDay : State := run [.setOpenDay 0 7 (some true)] ready

/-- Both buttons have been pressed. -/
def pressed : State := press 7 (press 0 openDay)

theorem test_sound_pressed : AllSound openDay ∧ AllSound pressed :=
  ⟨allSound_of_test (by decide +kernel), allSound_of_test (by decide +kernel)⟩

theorem test_setOpenDay : gives ready [(.setOpenDay 0 7 none, .badRequest), (.setOpenDay 0 7 (some false), .done)]
    ∧ gives (polling 14 ready) [(.setOpenDay 14 7 (some true), .notPermitted)]
    ∧ ((tget openDay.buttons 7).state, (tget openDay.buttons 1).state) = (.ready, .off)
    ∧ resultOf (.setOpenDay 0 7 (some false)) pressed = some (.done, .openDayOff 0 1)
    ∧ resultOf (.setOpenDay 0 7 (some false)) { openDay with tt := { openDay.tt with
        state := .failed, position := none, queue := [⟨0, .demo 0, some 3, none, none⟩] } } = some (.done, .openDayOff 1 0) := by decide +kernel

/-- A button in a state with its timers running. -/
def buttonAt (b : ButtonId) (x : ButtonState) (s : State) : State :=
  { s with buttons := tupd s.buttons b fun e => { e with state := x, lampTimer := some 1, cooldownTimer := some 1 } }

theorem test_presses : (tget (press 0 openDay).buttons 0).busyWith = some (.move 0)
    ∧ (tget (press 7 openDay).buttons 7).busyWith = some (.res 0)
    ∧ (tget (press 0 { openDay with tt := { openDay.tt with deckLock := .held 0 } }).buttons 0).state = .notNow
    ∧ (tget (press 0 { openDay with tt := { openDay.tt with queue := moves 8 } }).buttons 0).lampTimer = some 3000
    ∧ (tget (press 0 { openDay with tt := { openDay.tt with queue := moves 7 } }).buttons 0).state = .busy
    ∧ (tget (press 7 (buttonAt 7 .cooldown openDay)).buttons 7).cooldownTimer = some 600000
    ∧ press 0 ready = ready ∧ (tget ready.buttons 7).cfg = some ⟨.route 511, 600, 6, 7⟩ ∧ ChannelsDistinct ready :=
  ⟨by decide +kernel, by decide +kernel, by decide +kernel, by decide +kernel, by decide +kernel, by decide +kernel, rfl,
    by decide +kernel, test_sound_ready.channels⟩

theorem test_buttonTimers : (tget (after (.lampTimerExpiry 7) (buttonAt 7 .notNow openDay)).buttons 7).state = .ready
    ∧ (tget (after (.cooldownExpiry 7) (buttonAt 7 .cooldown openDay)).buttons 7).state = .ready
    ∧ (tget openDay.buttons 7).lampTimer = none ∧ (tget openDay.buttons 7).cooldownTimer = none := by decide +kernel

/-! ### The field link -/

/-- An exchange is outstanding. -/
def exchange (x : Exchange) (s : State) : State := { s with fieldLink := { s.fieldLink with outstanding := x } }

/-- A board in a state with a miss count and its re-poll timer. -/
def boardAt (a : BoardIdx) (x : BoardState) (n : Nat) (t : Timer) (s : State) : State :=
  { s with boards := tupd s.boards a fun b => { b with state := x, missCount := n, repollTimer := t } }

def detectors (i : InputNo) : BoardInputs := .detector (tput (tall 16 false) i true)

theorem test_image : ready.fieldLink.outstanding = .quiet ∧ (tget ready.boards 0).type = some (detectors 10).type
    ∧ (tget (after (.image 0 (detectors 10) false) (exchange (.refresh 0) ready)).sections 255).occ = .occupied
    ∧ (tget (after (.image 0 (detectors 10) false) (exchange (.refresh 0) (boardAt 0 .failed 3 (some 1) ready))).boards 0).state = .present
    ∧ (tget (after (.image 0 (detectors 10) false) (exchange (.refresh 0) (boardAt 0 .unknown 2 none ready))).sections 255).occ = .clear
    ∧ (tget (after (.image 0 .display false) (exchange (.refresh 0) ready)).boards 0).mismatch = true
    ∧ (tget (after (.image 0 .display false) (exchange (.refresh 0) (boardAt 0 .present 2 none ready))).boards 0).state = .failed := by
  decide +kernel

theorem test_fieldMisses : (tget (after (.fieldAnswerTimeout false) (exchange (.refresh 31) ready)).boards 31).missCount = 0
    ∧ (tget (after (.fieldAnswerTimeout false) (exchange (.refresh 0) (boardAt 0 .present 1 none ready))).boards 0).missCount = 2
    ∧ (tget (after (.fieldBadAnswer false) (exchange (.refresh 0) (boardAt 0 .present 2 none ready))).boards 0).repollTimer = some 500
    ∧ (tget (after (.fieldBadAnswer false) (exchange (.refresh 0) (boardAt 0 .present 2 none ready))).sections 255).occ = .unknown
    ∧ (tget (after (.fieldBadAnswer true) (exchange (.line 5 7 []) (boardAt 5 .unknown 2 none ready))).boards 5).state = .failed
    ∧ (tget (after (.fieldAnswerTimeout true) (exchange (.refresh 0) (boardAt 0 .failed 3 none ready))).boards 0).missCount = 3 := by
  decide +kernel

theorem test_theNextSend : (after (.fieldAnswerTimeout true) (exchange (.refresh 0) ready)).fieldLink.outstanding = .grant
    ∧ (after (.fieldAnswerTimeout false) (exchange (.refresh 0) ready)).fieldLink.outstanding = .refresh 0
    ∧ (after .grantTimeout (exchange .grant { ready with fieldLink := { ready.fieldLink with lastRefreshed := some 6 } })).fieldLink.outstanding
      = .refresh 0
    ∧ (after .grantTimeout (exchange .grant { ready with fieldLink := { ready.fieldLink with lastRefreshed := some 5 } })).fieldLink.outstanding
      = .refresh 6
    ∧ (after .badReport (exchange .grant { ready with fieldLink := { ready.fieldLink with returned := [31, 6] } })).fieldLink.outstanding
      = .refresh 6
    ∧ (after .grantTimeout (exchange .grant { ready with boards := tupd ready.boards 6 fun b =>
        { b with state := .failed, repollDue := true } })).fieldLink.outstanding = .refresh 6
    ∧ (after (.image 5 .display false) (exchange (.refresh 5) ready)).fieldLink.outstanding = .line 5 0 (List.replicate 32 space)
    ∧ (after .grantTimeout (exchange .grant { ready with boards := tall 32 .reset })).fieldLink.outstanding = .quiet := by decide +kernel

theorem test_report : (tget (after (.report 0 (detectors 10)) (exchange .grant ready)).sections 255).occ = .occupied
    ∧ (tget (after (.report 0 (detectors 10)) (exchange .grant (boardAt 0 .unknown 2 none ready))).boards 0).state = .present
    ∧ (tget (after (.report 0 .display) (exchange .grant ready)).boards 0).missCount = 0
    ∧ (tget ready.boards 31).type ≠ some (detectors 10).type := by decide +kernel

theorem test_lineTaken : (tget (tget (after (.lineTaken 5 7 false) (exchange (.line 5 7 (List.replicate 32 space)) ready)).depBoards 3).lines 7).mark
      = false
    ∧ (tget (tget (after (.lineTaken 5 7 false) (exchange (.line 5 7 [0x41]) ready)).depBoards 3).lines 7).mark = true
    ∧ (tget ready.boards 5).type ≠ none := by decide +kernel

theorem test_boardRepollExpiry : (tget ready.boards 0).repollTimer = none
    ∧ (tget (after (.boardRepollExpiry 0) (exchange .grant (boardAt 0 .failed 3 (some 1) ready))).boards 0).repollDue = true
    ∧ (after (.boardRepollExpiry 0) (boardAt 0 .failed 3 (some 1) ready)).fieldLink.outstanding = .refresh 0 := by decide +kernel

/-- A board that is away, everything else as it stood. -/
def away (a : BoardIdx) (s : State) : State := boardAt a .failed 3 (some 500) s

theorem test_sound_away : AllSound (away 0 ready) ∧ AllSound (away 1 setting) ∧ AllSound (away 3 ready) ∧ AllSound (away 4 unbolting)
    ∧ AllSound (away 3 tripped) :=
  ⟨allSound_of_test (by decide +kernel), allSound_of_test (by decide +kernel), allSound_of_test (by decide +kernel),
    allSound_of_test (by decide +kernel), allSound_of_test (by decide +kernel)⟩

theorem test_departures : (tget (ownersLeave 0 (away 0 ready)).sections 255).occ = .unknown
    ∧ (tget (ownersLeave 1 (away 1 setting)).points 5).state = .unknown
    ∧ (tget (ownersLeave 2 (away 2 opened)).signals 2).aspect = .danger
    ∧ (tget (ownersLeave 3 (away 3 ready)).districts 0).state = .tripped
    ∧ (tget (ownersLeave 3 (away 3 tripped)).districts 0).retryTimer = none
    ∧ (ownersLeave 4 (away 4 unbolting)).tt.state = .failed
    ∧ (tget (ownersReturn 3 (away 3 tripped)).districts 0).retryTimer = some 5000
    ∧ (tget (ownersReturn 2 (away 2 ready)).signals 127).controlled = true
    ∧ (tget (tget (ownersReturn 5 (away 5 ready)).depBoards 3).lines 7).mark = true := by decide +kernel

/-! ### Invariants -/

theorem test_aSoundStepExists : AllSound ready ∧ (∃ t, step ready = .next t) ∧ (∃ t, exec (.idle 0) ready = .next t) :=
  ⟨test_sound_ready, ⟨_, rfl⟩, ⟨_, rfl⟩⟩

/-! ### Configuring the items -/

/-- The loader is at the ninth block of a store, some blocks having failed. -/
def ninth (failed : List (Fin 9)) (m : List Host.Cell) : State := loading (.block 8 failed) m

theorem test_unread_ninth (failed : List (Fin 9)) (m : List Host.Cell) : UnreadSound (ninth failed m) := by
  have h := (afterChipReset_tables 0 [] [] 0 []).unreadSound
  exact ⟨fun _ => h.items (Or.inl rfl), fun _ => h.images (Or.inl rfl)⟩

/-- The erased ninth block fails its CRC against an erased header. -/
theorem test_theNinthBlockFails : BlockChecked (ninth [0] []) 8 [0] [0, 8] := by
  refine Or.inr ⟨fun h => ?_, rfl⟩
  have e : ¬ crc16 (memReads ([] : List Host.Cell) (blockArea 8).1 (blockArea 8).2)
      = wordAt (memReads ([] : List Host.Cell) 0 64) (10 + 4 * 8) := by decide +kernel
  exact e h.2.1

/-- A ninth block that matches its header. -/
theorem test_theNinthBlockPasses : ∃ m, (ninth [0] m).resetHeld = false ∧ (ninth [0] m).loader = .block 8 [0]
    ∧ BlockChecked (ninth [0] m) 8 [0] [0] := by
  obtain ⟨a, b, c⟩ := blockHeld_matches 8 rfl (by decide) [0] _ rfl
  exact ⟨blockHeld 8, a, b, Or.inl ⟨c, rfl⟩⟩

/-- The turntable that is left absent is UNKNOWN even where its board had failed it, an IDLE one keeps its place with its
board alone, and a FAILED one that is configured stays FAILED. -/
theorem test_theTurntableIsConfigured :
    let failed := { ready.tt with state := .failed, position := none }
    let moved := ready.tt.cfg.map fun c => { c with board := 7 }
    (failed.configured none).state = .unknown ∧ (failed.configured ready.tt.cfg).state = .failed
      ∧ ready.tt.configured ready.tt.cfg = ready.tt ∧ (ready.tt.configured none).lastPosition = some 0
      ∧ ((ready.tt.configured moved).state, (ready.tt.configured moved).position) = (.unknown, none) := by decide +kernel

theorem test_rangesInUse : rangeInUse ⟨0, 128⟩ = some ⟨0, 128⟩ ∧ rangeInUse ⟨64, 128⟩ = none ∧ rangeInUse ⟨127, 1⟩ = some ⟨127, 1⟩
    ∧ rangeInUse ⟨128, 1⟩ = none ∧ rangeInUse ⟨0, 0⟩ = none ∧ rangeInUse ⟨1, 2⟩ = none
    ∧ (cooldownInRange 9, cooldownInRange 10, cooldownInRange 600, cooldownInRange 601) = (60, 10, 600, 60)
    ∧ within 100 2000 500 99 = 500 ∧ within 100 2000 500 2000 = 2000 := by decide +kernel

/-- A torn page whose block has since had its CRC made afresh over the bytes as they stand is no longer marked (R177). -/
theorem test_aTornPageWithItsCrcMadeAfresh :
    (after (.storePageWritten (edgePage 2)) { writing (.config 0 1) .header (edgePage 2) .noImage with torn := [0x10] }).torn
      = [] := by decide +kernel

/-! ### What new occupancies do -/

/-- A train stands in the berth of signal 2, and route 511 is OPEN before it; the train is announced. -/
def boarding : State :=
  run [.setRoute 0 7 2 .boundary, announce 3 0 2 time none] (run [interpose 13 0 0 none] (occupy 13 .occupied ready))

/-- The train has entered; it stands in the last section of the route; and the first section begins to clear. -/
def entered : State := detectorReport 14 true boarding
def beyond : State := detectorReport 15 true entered
def drawing : State := detectorReport 14 false beyond

/-- The last section clears, which is the layout's edge. -/
def leaving : State := detectorReport 15 false (run [.clearDelayExpiry 14] drawing)

theorem test_sound_boarding : AllSound boarding ∧ AllSound drawing ∧ AllSound leaving :=
  ⟨allSound_of_test (by decide +kernel), allSound_of_test (by decide +kernel), allSound_of_test (by decide +kernel)⟩

theorem watched_of {s : State} {n : SectionId} {g : SectionCfg} (e : (tget s.sections n).cfg = some g)
    (h : decide (s.loadState = .ready ∧ (tget s.boards g.board).state = .present
      ∧ (tget s.districts g.district).state = .normal) = true) : Watched s n :=
  ⟨(of_decide_eq_true h).1, g, e, (of_decide_eq_true h).2⟩

theorem test_watched : Watched boarding 14 ∧ Watched ready 255 ∧ Watched entered 15 ∧ (tget boarding.sections 14).occ = .clear
    ∧ (tget ready.sections 255).occ = .clear ∧ (tget entered.sections 15).occ = .clear :=
  ⟨watched_of (g := ⟨0, 0, 3⟩) (by decide +kernel) (by decide +kernel),
    watched_of (g := ⟨0, 0, 10⟩) (by decide +kernel) (by decide +kernel),
    watched_of (g := ⟨0, 0, 4⟩) (by decide +kernel) (by decide +kernel), by decide +kernel, by decide +kernel, by decide +kernel⟩

theorem takenFor_lock {s : State} {n : SectionId} {x : SignalId} {l : SectionLock} {g : SignalCfg}
    (h : (tget s.sections n).lock = some l ∧ (tget s.signals x).entranceOf = some l.res ∧ (tget s.signals x).cfg = some g)
    (f : g.firstBeyond = n) : TakenFor (occupiedNow n s) n (tget s.sections n).lock x := by
  rw [h.1]
  exact ⟨⟨g.berth, g, h.2.2, rfl, f⟩, h.2.1⟩

/-- An OPEN route is entered over its own lock. -/
theorem test_aRouteIsTaken : TakenFor (occupiedNow 14 boarding) 14 (tget boarding.sections 14).lock 2
    ∧ (tget boarding.signals 2).entranceOf = some 0 :=
  ⟨takenFor_lock (l := ⟨0, .path 0⟩) (g := ⟨.main, 2, 1, 13, 14⟩) (by decide +kernel) rfl, by decide +kernel⟩

theorem test_entries : ((getRes entered 0).map fun v => (v.state, v.train, v.demoHold)) = some (.traversed, some 0, none)
    ∧ (tget entered.signals 2).aspect = .danger
    ∧ ((tget entered.announcements 0).map fun a => (a.state, a.linger)) = some (.departed, some 20000)
    ∧ hasFlag entered 0 .announce = true
    ∧ ((getRes (detectorReport 14 true approachHeld) 0).map fun v => (v.state, v.approachTimer)) = some (.traversed, none)
    ∧ ((getRes (detectorReport 12 true setting) 0).map (·.state)) = some .setting
    ∧ ((getRes arrived 0).bind (·.overlapTimer)) = some 30000
    ∧ getRes (detectorReport 12 true (run [.cancelRoute 0 7 0] (seen setting))) 0 = none
    ∧ ((getRes (run [.cancelRoute 0 7 0] (seen setting)) 0).map fun v => (v.state, v.releaseCursor)) = some (.approachHeld, 2) := by
  decide +kernel

/-- Only signal 1 leads into section 12, and it has no OPEN route. -/
theorem test_aPassingAtDanger : PassesAt (occupiedNow 12 ready) 12 (tget ready.sections 12).lock 1
    ∧ (tget ready.sections 12).cfg = some ⟨0, 0, 1⟩ ∧ (tget ready.sections 12).occ = .clear := by
  have l : (tget ready.sections 12).lock = none ∧ (tget ready.signals 1).entranceOf = none
    ∧ (tget ready.signals 1).cfg = some ⟨.main, 2, 0, 11, 12⟩ := by decide +kernel
  have o : ∀ y : SignalId, (tget ready.signals y).cfg.map (·.firstBeyond) = some 12 → y = 1 := by decide +kernel
  refine ⟨?_, by decide +kernel, by decide +kernel⟩
  rw [l.1]
  refine ⟨⟨⟨11, _, l.2.2, rfl, rfl⟩, Or.inl ?_⟩, ?_⟩
  · rintro y b ⟨g, e, _, f⟩
    have e : (tget ready.signals y).cfg = some g := e
    exact o y (by rw [e, ← f]; rfl)
  · rintro d ⟨r, _, e, _⟩
    have e : (tget ready.signals 1).entranceOf = some r := e
    rw [l.2.1] at e
    cases e

theorem test_cuts : (tget (detectorReport 12 true ready).districts 0).state = .cut
    ∧ (tget (detectorReport 12 true ready).districts 0).cause = some 1
    ∧ (tget (detectorReport 12 true ready).sections 255).occ = .unknown
    ∧ hasFlag (detectorReport 12 true ready) 14 .passedAtDanger = true
    ∧ (tget (detectorReport 255 true ready).districts 0).state = .normal
    ∧ (tget entered.districts 0).state = .normal ∧ hasFlag entered 0 .passedAtDanger = false := by decide +kernel

theorem test_releases : (∃ v, resDef drawing 0 = some (v, edgeRoute)
      ∧ decide (v.releases = true ∧ v.releaseCursor = 0 ∧ v.state = .traversed) = true)
    ∧ Releasable (fun m => if m = 14 then .clear else (tget drawing.sections m).occ) edgeRoute 0
    ∧ ¬ Releasable (fun m => if m = 14 then .clear else (tget drawing.sections m).occ) edgeRoute 1
    ∧ ((getRes (after (.clearDelayExpiry 14) drawing) 0).map (·.releaseCursor)) = some 1
    ∧ (tget (after (.clearDelayExpiry 14) drawing).points 6).lock = .free
    ∧ (∃ v, resDef leaving 0 = some (v, edgeRoute) ∧ decide (v.releases = true ∧ v.releaseCursor = 1) = true)
    ∧ Releasable (fun m => if m = 15 then .clear else (tget leaving.sections m).occ) edgeRoute 1
    ∧ ¬ Releasable (fun m => if m = 15 then .clear else (tget leaving.sections m).occ) edgeRoute 2
    ∧ getRes (after (.clearDelayExpiry 15) leaving) 0 = none
    ∧ (tget drawing.sections 14).clearTimer ≠ none ∧ (tget leaving.sections 15).clearTimer ≠ none :=
  ⟨defines_of (by decide +kernel), by decide +kernel, by decide +kernel, by decide +kernel, by decide +kernel,
    defines_of (by decide +kernel), by decide +kernel, by decide +kernel, by decide +kernel, by decide +kernel, by decide +kernel⟩

theorem noHead_of {s : State} {n : SectionId} (h : headIn s n = none) : NoHead s n := by
  intro t v e f
  unfold headIn at h
  rw [List.head?_eq_none_iff] at h
  have m : t ∈ idsWhere s.trains fun x => x.bind (·.head) == some n := by
    rw [mem_idsWhere, e]
    simp [f]
  rw [h] at m
  cases m

theorem isHead_of {s : State} {n : SectionId} {t : TrainId} (h : (tget s.trains t).bind (·.head) = some n) : IsHead s n t := by
  cases e : tget s.trains t with
  | none => rw [e] at h; cases h
  | some v => rw [e] at h; exact ⟨v, e, h⟩

theorem comesFrom_lock {s : State} {n p : SectionId} {t : TrainId} {r : ResId} {v : Reservation} {d : RouteDef} {g : SignalCfg}
    (h : (tget s.sections n).lock = some ⟨r, .path 0⟩ ∧ ((tget s.trains t).bind (·.head)) = some p
      ∧ (tget s.signals d.entrance).cfg = some g ∧ g.berth = p) (e : resDef s r = some (v, d)) :
    ComesFrom (occupiedNow n s) n (tget s.sections n).lock t p := by
  rw [h.1]
  exact ⟨isHead_of h.2.1, v, d, g.firstBeyond, e, g, h.2.2.1, h.2.2.2, rfl⟩

/-- The train in the berth comes into the route's first section. -/
theorem test_aTrainComes : ComesFrom (occupiedNow 14 boarding) 14 (tget boarding.sections 14).lock 0 13 ∧ NoHead boarding 14 := by
  obtain ⟨v, d, _⟩ := defines_of (s := boarding) (r := 0) (d := edgeRoute) (p := fun _ => true) (by decide +kernel)
  exact ⟨comesFrom_lock (g := ⟨.main, 2, 1, 13, 14⟩) (by decide +kernel) d, noHead_of (by decide +kernel)⟩

/-- A train whose head stands in a section that is CLEAR, LOST or not; and one has come from the road of the deck route to
its signal. -/
def headed (t : TrainId) (n : SectionId) (l : Bool) (s : State) : State :=
  { s with trains := tput s.trains t (some ⟨headcode, none, .goods, some n, none, [], l, false⟩) }
def lostAt (n : SectionId) (s : State) : State := headed 47 n true s
def deckAt (p : RoadId) (s : State) : State := { s with tt := { s.tt with position := some p } }
def deckBound (p : RoadId) : State :=
  run [.setRoute 0 7 3 .boundary] (run [interpose 16 0 0 none] (occupy 16 .occupied (deckAt p ready)))

theorem test_sound_trains : AllSound (lostAt 14 boarding) ∧ AllSound (deckBound 3) :=
  ⟨allSound_of_test (by decide +kernel), allSound_of_test (by decide +kernel)⟩

theorem test_trainsThatMove : ((tget entered.trains 0).map fun v => (v.head, v.lost, v.facing)) = some (some 14, false, none)
    ∧ ((tget (detectorReport 12 true (run [interpose 11 0 0 none] (occupy 11 .occupied ready))).trains 0).map fun v =>
        (v.head, v.passed)) = some (some 12, true)
    ∧ ((tget (detectorReport 14 true (lostAt 14 boarding)).trains 0).bind (·.head)) = some 13
    ∧ hasFlag (detectorReport 14 true (lostAt 14 boarding)) 0 .train = true
    ∧ ((tget (detectorReport 255 true (lostAt 255 ready)).trains 47).map (·.lost)) = some false
    ∧ ((tget (detectorReport 20 true (deckBound 3)).trains 0).bind (·.facing)) = none
    ∧ hasFlag (detectorReport 20 true (deckBound 3)) 0 .train = true
    ∧ ((tget (detectorReport 20 true (deckAt 23 (deckBound 3))).trains 0).bind (·.facing))
      = some .b
    ∧ ((tget (detectorReport 20 true (deckAt 11 (deckBound 3))).trains 0).bind (·.facing))
      = some .a := by decide +kernel

/-- Two signals lead into section 14, and a train stands CLEAR before each. -/
def doubtful : State := headed 0 13 false (headed 1 255 false (addSignal 4 .main 255 14 4 ready))

theorem test_sound_doubtful : AllSound doubtful := allSound_of_test (by decide +kernel)

theorem test_anAmbiguousArrival : Ambiguous (occupiedNow 14 doubtful) 14 (tget doubtful.sections 14).lock
    ∧ hasFlag (detectorReport 14 true doubtful) 0 .train = true
    ∧ ((tget (detectorReport 14 true doubtful).trains 0).bind (·.head)) = some 13 := by
  have l : (tget doubtful.sections 14).lock = none ∧ (tget doubtful.signals 2).cfg = some ⟨.main, 2, 1, 13, 14⟩
    ∧ (tget doubtful.signals 4).cfg = some ⟨.main, 2, 4, 255, 14⟩ ∧ (tget (occupiedNow 14 doubtful).sections 13).occ = .clear
    ∧ (tget (occupiedNow 14 doubtful).sections 255).occ = .clear
    ∧ ((tget doubtful.trains 0).bind (·.head)) = some 13 ∧ ((tget doubtful.trains 1).bind (·.head)) = some 255 := by decide +kernel
  have o : ∀ y : SignalId, (tget doubtful.signals y).cfg.map (·.firstBeyond) = some 14 →
    (tget doubtful.signals y).cfg.map (·.berth) = some 13 ∨ (tget doubtful.signals y).cfg.map (·.berth) = some 255 := by
    decide +kernel
  obtain ⟨l1, l2, l3, l4, l5, l6, l7⟩ := l
  have h13 : HeadBerth (occupiedNow 14 doubtful) 14 13 := by
    obtain ⟨v, e, f⟩ := isHead_of l6
    exact ⟨⟨2, _, l2, rfl, rfl⟩, fun k => k 0 v e f⟩
  have h255 : HeadBerth (occupiedNow 14 doubtful) 14 255 := by
    obtain ⟨v, e, f⟩ := isHead_of l7
    exact ⟨⟨4, _, l3, rfl, rfl⟩, fun k => k 1 v e f⟩
  refine ⟨⟨fun r k => by rw [l1]; simp, ⟨13, 255, by decide, h13, h255⟩, fun t p h => ?_⟩, by decide +kernel, by decide +kernel⟩
  rw [l1] at h
  obtain ⟨_, b, c⟩ := h
  have hp : p = 13 ∨ p = 255 := by
    obtain ⟨⟨y, g, e, f, k⟩, _⟩ := b
    have e : (tget doubtful.signals y).cfg = some g := e
    have := o y (by rw [e, ← k]; rfl)
    rw [e] at this
    simpa [f] using this
  rcases c with c | ⟨c, _⟩
  · exact absurd ((c 13 h13).trans (c 255 h255).symm) (by decide)
  · rcases hp with hp | hp <;> subst hp
    · rw [l4] at c; cases c
    · rw [l5] at c; cases c

/-- Train 0 stands in section 255, which clears. -/
def vanishing : State := detectorReport 255 false (run [interpose 255 0 0 none] (occupy 255 .occupied ready))

theorem test_sound_vanishing : AllSound vanishing := allSound_of_test (by decide +kernel)

theorem test_headsThatClear : ((tget (after (.clearDelayExpiry 255) vanishing).trains 0).map fun v => (v.head, v.lost)) = some (some 255, true)
    ∧ hasFlag (after (.clearDelayExpiry 255) vanishing) 0 .train = true
    ∧ ((tget leaving.trains 0).map (·.head)) = some (some 15) ∧ (tget leaving.sections 15).lock = some ⟨0, .path 1⟩
    ∧ ((tget (after (.clearDelayExpiry 15) leaving).trains 0).map fun v => (v.head, v.lost)) = some (none, false)
    ∧ (tget vanishing.sections 255).clearTimer ≠ none ∧ vanishing.resetHeld = false := by decide +kernel

/-! ### Setting, opening and the ends of operations -/

/-- Both points of route 0 move. -/
def twoMoving : State := run [.rechargeExpiry] (run [.setRoute 0 7 1 (.signal 2)] (pointAt 6 .reverse ready))

/-- Only the overlap's point moves; and the overlap has been released meanwhile, the other point having failed. -/
def overlapMoves : State := run [.setRoute 0 7 1 (.signal 2)] (pointAt 5 .reverse (pointAt 6 .reverse ready))
def dropped : State :=
  let s := resWith 0 (fun v => { v with overlapReleased := true, settingCursor := 0, fault := .point 5 }) (pointAt 5 .failed overlapMoves)
  { s with points := tupd s.points 6 (fun e => { e with lock := .free }), sections := tupd s.sections 14 fun e => { e with lock := none } }

/-- The work of the route is withdrawn, held for its approach, and released in emergency, with one point or two moving. -/
def cancelling (s : State) : State := run [.cancelRoute 0 7 0] s
def freed (s : State) : State := run [.emergencyRelease 0 7 0] s

theorem test_sound_throws : AllSound twoMoving ∧ AllSound overlapMoves ∧ AllSound dropped ∧ AllSound (cancelling setting)
    ∧ AllSound (cancelling twoMoving) ∧ AllSound (cancelling (seen setting)) ∧ AllSound (cancelling (seen twoMoving))
    ∧ AllSound (freed setting) :=
  ⟨allSound_of_test (by decide +kernel), allSound_of_test (by decide +kernel), allSound_of_test (by decide +kernel),
    allSound_of_test (by decide +kernel), allSound_of_test (by decide +kernel), allSound_of_test (by decide +kernel),
    allSound_of_test (by decide +kernel), allSound_of_test (by decide +kernel)⟩

/-- A point moves for route 0, which is in a state, with a release cursor of 0 or not, and alone or not. -/
def movesFor (p : PointId) (x : ResState) (z alone : Bool) (s : State) : Bool :=
  decide (s.resetHeld = false ∧ s.loadState = .ready ∧ (tget s.points p).state = .moving ∧ (tget s.points p).throwOwner = some 0)
    && defines s 0 mainRoute (fun v => decide (v.state = x ∧ (v.releaseCursor = 0 ↔ z = true)))
    && (decide (throwsInFlight s 0 = [p]) == alone)

theorem test_theThrowsOfARoute : movesFor 5 .setting true true setting ∧ movesFor 6 .setting true true overlapMoves
    ∧ movesFor 6 .setting true true dropped ∧ movesFor 5 .cancelling false true (cancelling setting)
    ∧ movesFor 5 .cancelling false false (cancelling twoMoving) ∧ movesFor 5 .approachHeld false true (cancelling (seen setting))
    ∧ movesFor 5 .approachHeld false false (cancelling (seen twoMoving)) ∧ movesFor 5 .releasing true true (freed setting) := by
  decide +kernel

/-- The reservation's state and fault note after the failure, and after the success, of a point's throw. -/
def failing (p : PointId) (s : State) : Option (ResState × FaultNote) :=
  (getRes (after (.throwTimerExpiry p) s) 0).map fun v => (v.state, v.fault)
def succeeding (c : Channel) (k : Contacts) (s : State) : Option (ResState × FaultNote) :=
  (getRes (detectionReport 1 c k s) 0).map fun v => (v.state, v.fault)

theorem test_theEndsOfThrows : failing 5 setting = some (.setting, .point 5) ∧ failing 6 dropped = some (.setting, .point 5)
    ∧ succeeding 1 ⟨true, false⟩ overlapMoves = some (.opened, .clean) ∧ succeeding 1 ⟨true, false⟩ dropped = some (.setting, .point 5)
    ∧ (tget dropped.points 6).target = some .normal ∧ (tget setting.points 5).target = some .reverse
    ∧ failing 5 (cancelling setting) = none ∧ succeeding 0 ⟨false, true⟩ (cancelling setting) = none
    ∧ failing 5 (cancelling twoMoving) = some (.cancelling, .clean) ∧ failing 5 (cancelling (seen setting)) = none
    ∧ failing 5 (cancelling (seen twoMoving)) = some (.approachHeld, .clean)
    ∧ failing 5 (freed setting) = some (.releasing, .clean)
    ∧ (tget (after (.throwTimerExpiry 5) (cancelling (seen twoMoving))).points 5).lock = .free
    ∧ (tget (after (.throwTimerExpiry 5) (freed setting)).points 5).lock = .res 0 := by decide +kernel

/-- The deck route waits for its own move; for another's; and is set, the deck standing right. -/
def deckSet (s : State) : State := run [.setRoute 0 7 3 .boundary] s
def deckSetting : State := deckSet ready
def deckPromised : State := deckSet (run [.turntableMove 0 7 23 (some .a)] ready)
def deckOpened : State := deckSet (deckAt 3 ready)

/-- A deck route whose last element has a point, which moves: the setting cursor has passed the deck. -/
def longRoute : RouteDef := ⟨3, .boundary, .shunt, 0, [16], [⟨20, none, some ⟨3, .a⟩⟩, ⟨15, some ⟨127, .reverse⟩, none⟩], []⟩
def deckPassed : State := deckSet (addRoute 1 longRoute (deckAt 3 ready))

/-- The turntable ends the move it runs at a position. -/
def boltingAt (p : RoadId) (s : State) : State := { s with tt := { s.tt with state := .bolting, position := some p } }

/-- A train has entered the deck route. -/
def deckEntered : State := detectorReport 20 true deckOpened

theorem test_sound_deck : AllSound deckSetting ∧ AllSound (boltingAt 3 deckSetting) ∧ AllSound (boltingAt 23 deckPromised)
    ∧ AllSound deckOpened ∧ AllSound deckPassed ∧ AllSound (cancelling deckSetting) ∧ AllSound (boltingAt 3 (cancelling deckSetting))
    ∧ AllSound deckEntered :=
  ⟨allSound_of_test (by decide +kernel), allSound_of_test (by decide +kernel), allSound_of_test (by decide +kernel),
    allSound_of_test (by decide +kernel), allSound_of_test (by decide +kernel), allSound_of_test (by decide +kernel),
    allSound_of_test (by decide +kernel), allSound_of_test (by decide +kernel)⟩

/-- Route 0 has the deck, in a state. -/
def decked (d : RouteDef) (x : ResState) (s : State) : Bool :=
  defines s 0 d (fun v => decide (v.state = x)) && decide (s.resetHeld = false ∧ s.loadState = .ready ∧ s.tt.deckLock.holder = some 0)

theorem test_theRoutesThatHaveTheDeck : decked deckRoute .setting (boltingAt 3 deckSetting) ∧ decked deckRoute .setting (boltingAt 23 deckPromised)
    ∧ decked deckRoute .setting deckSetting ∧ decked longRoute .setting deckPassed ∧ decked deckRoute .opened deckOpened
    ∧ decked deckRoute .cancelling (cancelling deckSetting) ∧ decked deckRoute .cancelling (boltingAt 3 (cancelling deckSetting))
    ∧ decked deckRoute .traversed deckEntered ∧ deckSetting.tt.runs ∧ (cancelling deckSetting).tt.runs ∧ deckOpened.tt.state = .idle
    ∧ deckPassed.tt.state = .idle ∧ ((getRes deckPassed 0).map (·.settingCursor)) = some 1
    ∧ (boltingAt 23 deckPromised).tt.deckLock = .promised 0 ∧ deckOpened.tt.deckLock = .held 0
    ∧ deckSetting.tt.lastIndexCount = none := by decide +kernel

/-- The state after the turntable ends its move, fails at a stage's time, fails at rest, and is reset. -/
def ending (s : State) : State := turntableReport 4 (inputs .isIn 0 false) s
def stageFails (s : State) : State := after .stageTimerExpiry s
def restFails (s : State) : State := turntableReport 4 (inputs .between 0 false) s
def ttReset (s : State) : State := after (.turntableReset 0 7) s

def noted (s : State) : Option (ResState × FaultNote) := (getRes s 0).map fun v => (v.state, v.fault)

theorem test_theTurntablesEnds : noted (ending (boltingAt 3 deckSetting)) = some (.opened, .clean)
    ∧ noted (ending (boltingAt 23 deckPromised)) = some (.setting, .clean)
    ∧ (ending (boltingAt 23 deckPromised)).tt.deckLock = .held 0
    ∧ noted (stageFails deckSetting) = some (.setting, .deck) ∧ noted (restFails deckPassed) = some (.setting, .clean)
    ∧ noted (ttReset deckSetting) = some (.setting, .deck) ∧ noted (ttReset deckPassed) = some (.setting, .deck)
    ∧ noted (restFails deckOpened) = some (.setting, .deck) ∧ noted (ttReset deckOpened) = some (.setting, .deck)
    ∧ (tget (restFails deckOpened).signals 3).aspect = .danger
    ∧ noted (ending (boltingAt 3 (cancelling deckSetting))) = none ∧ noted (stageFails (cancelling deckSetting)) = none
    ∧ noted (ttReset (cancelling deckSetting)) = none ∧ (ttReset (cancelling deckSetting)).tt.deckLock = .free
    ∧ noted (restFails deckEntered) = some (.traversed, .clean) ∧ (restFails deckEntered).tt.deckLock = .held 0 := by decide +kernel

theorem test_aRequirementIsLost : (tget opened.points 6).cfg = some ⟨14, 1, 1⟩ ∧ opened.loadState = .ready
    ∧ ((getRes (detectionReport 1 1 ⟨false, false⟩ opened) 0).map fun v => (v.state, v.settingCursor, v.fault))
      = some (.setting, 0, .point 6)
    ∧ (tget (detectionReport 1 1 ⟨false, true⟩ opened).signals 2).aspect = .danger
    ∧ (detectionReport 1 1 ⟨false, true⟩ opened).throwQueue = [] ∧ (edgeRoute.path[0]?.bind (·.point)) = some ⟨6, .normal⟩ := by
  decide +kernel

/-! ### Inputs, homing and buttons -/

theorem test_theInputsAreHandedOn :
    (tget (handInputs 0 (.detector (tput (tput (tall 16 false) 10 true) 2 true)) ready).sections 255).occ = .occupied
    ∧ (tget (handInputs 0 (.detector (tput (tput (tall 16 false) 10 true) 2 true)) ready).sections 13).occ = .occupied
    ∧ (tget (handInputs 0 (detectors 10) ready).sections 15).occ = .clear
    ∧ (tget (handInputs 1 (.point (tput (tall 8 ⟨true, false⟩) 2 ⟨false, true⟩)) ready).points 127).state = .failed
    ∧ (tget (handInputs 3 (.district (tput (tall 8 false) 0 true)) ready).districts 0).faultFilter = some 10
    ∧ (handInputs 4 (.turntable (inputs .between 0 true)) ready).tt.state = .failed
    ∧ (tget (handInputs 6 (.button (tput (tall 8 false) 7 true)) ready).buttons 7).lastLevel = some true := by decide +kernel

/-- Button 7 was seen released. -/
def released (s : State) : State := buttonReport 6 7 false s

theorem test_faultsAndLevels : (tget (faultReport 0 true ready).districts 0).faultFilter = some 10
    ∧ (tget (faultReport 0 true (faulty retried)).districts 0).faultFilter = some 10
    ∧ (tget (faultReport 0 false (faulty ready)).districts 0).faultFilter = none
    ∧ (tget (faultReport 0 true tripped).districts 0).faultFilter = none ∧ (tget (faultReport 7 true ready).districts 7).faultFilter = none
    ∧ (tget (buttonReport 6 7 true (released openDay)).buttons 7).state = .busy
    ∧ (tget (buttonReport 6 7 true openDay).buttons 7).state = .ready
    ∧ (tget (buttonReport 6 7 true (buttonReport 6 7 true openDay)).buttons 7).lastLevel = some true := by decide +kernel

/-- The turntable homes, in a phase, with a number of steps behind it. -/
def homing (p : HomingPhase) (n : Nat) : State :=
  let s := run [.turntableHome 0 7] (deck fun t => { t with state := .failed, position := none, interrupted := true })
  { s with tt := { s.tt with phase := some p, stepsCounted := n } }

/-- A report takes homing to a state, a phase, a number of steps and a position. -/
def homed (p : HomingPhase) (n : Nat) (i : TurntableInputs) (x : TtState) (y : Option HomingPhase) (k : Nat) (q : Option RoadId) : Bool :=
  let t := reported (homing p n) i
  decide (t.state = x) && decide (t.phase = y) && decide (t.stepsCounted = k) && decide (t.position = q)

theorem test_homingReports : (homing .unbolt 0).tt.state = .homing ∧ (homing .unbolt 0).loadState = .ready
    ∧ homed .unbolt 0 (inputs .between 255 true) .homing (some .unbolt) 0 none
    ∧ homed .unbolt 0 (inputs .isOut 0 true) .failed none 0 none
    ∧ homed .unbolt 0 (inputs .isOut 255 true) .homing (some .bolt) 0 none
    ∧ homed .unbolt 0 (inputs .isOut 255 false) .homing (some .seek) 0 none
    ∧ homed .unbolt 0 { inputs .isOut 255 false with fault := true } .failed none 0 none
    ∧ homed .seek 22 (inputs .isOut 255 false) .homing (some .seek) 22 none
    ∧ homed .seek 22 (inputs .isOut 0 false) .homing (some .seek) 23 none := by decide +kernel

theorem test_homingEnds : homed .seek 23 (inputs .isOut 0 true) .homing (some .bolt) 24 none
    ∧ homed .seek 23 (inputs .isOut 1 true) .homing (some .bolt) 24 none
    ∧ homed .seek 23 (inputs .isOut 0 false) .failed none 24 none
    ∧ homed .bolt 24 (inputs .isIn 255 true) .idle none 24 (some 0)
    ∧ homed .bolt 24 (inputs .isIn 255 false) .homing (some .bolt) 24 none
    ∧ homed .bolt 24 (inputs .isIn 0 true) .failed none 24 none
    ∧ (reported (homing .bolt 24) (inputs .isIn 255 true)).interrupted = false := by decide +kernel

/-- Each phase of homing, at the ends of its count, obeys the turntable's law. -/
theorem test_homingIsLawful : (homing .seek 24).tt.cfg.map (·.board) = some 4
    ∧ (∀ p ∈ [HomingPhase.unbolt, .seek, .bolt], ∀ n ∈ [0, 22, 23, 24], RunningLaw (homing p n))
    ∧ homed .seek 24 (inputs .isOut 255 false) .failed none 24 none
    ∧ homed .seek 24 (inputs .isOut 255 true) .homing (some .bolt) 24 none := by decide +kernel

theorem test_pitEdges : Watched unbolting 21 ∧ (tget unbolting.sections 21).occ = .clear ∧ AllSound unbolting
    ∧ (detectorReport 21 true unbolting).tt.state = .failed ∧ (turntableSection 22 .unknown unbolting).tt.state = .failed
    ∧ (turntableSection 22 .occupied (homing .seek 1)).tt.state = .failed
    ∧ (turntableSection 22 .occupied (homing .bolt 1)).tt.state = .homing
    ∧ (turntableSection 22 .occupied (turning 0)).tt.state = .failed
    ∧ (turntableSection 21 .clear { held with sections := ready.sections }).tt.state = .unbolting
    ∧ (turntableSection 20 .occupied unbolting).tt.state = .unbolting ∧ (turntableSection 255 .occupied unbolting).tt.state = .unbolting :=
  ⟨watched_of (g := ⟨0, 0, 8⟩) (by decide +kernel) (by decide +kernel), by decide +kernel, allSound_of_test (by decide +kernel),
    by decide +kernel, by decide +kernel, by decide +kernel, by decide +kernel, by decide +kernel, by decide +kernel,
    by decide +kernel, by decide +kernel⟩

/-- A move ends with another behind it. -/
theorem test_aMoveEndsBeforeAnother : (reported (boltingAt 3 turntableBusy) (inputs .isIn 255 false)).state = .unbolting
    ∧ (reported (boltingAt 3 turntableBusy) (inputs .isIn 255 false)).queue = []
    ∧ turntableBusy.tt.deckLock = .free := by decide +kernel

/-- Route 511 is in use while open-day mode is on. -/
theorem test_aRouteButton : AllSound openDay ∧ ((tget openDay.buttons 7).state, openDay.loadState) = (.ready, .ready)
    ∧ ((getRes (press 7 openDay) 0).map fun v => (v.owner, v.state, v.demoHold)) = some (.demo, .opened, some 20000)
    ∧ ((getRes (press 7 (pointAt 6 .reverse openDay)) 0).map fun v => (v.state, v.demoHold)) = some (.setting, none)
    ∧ (let s := run [.setRoute 0 7 2 .boundary] openDay
      ((tget (press 7 s).buttons 7).state, (tget (press 7 s).buttons 7).lampTimer) = (.notNow, some 3000)
        ∧ (press 7 s).reservations = s.reservations)
    ∧ (tget (press 7 { openDay with slots := tupd openDay.slots 511 fun e => { e with writing := true } }).buttons 7).state = .notNow
    ∧ (tget (press 7 { openDay with slots := tall 512 .reset }).buttons 7).state = .notNow :=
  ⟨test_sound_pressed.1, by decide +kernel, by decide +kernel, by decide +kernel, by decide +kernel, by decide +kernel, by decide +kernel⟩

/-- Station 14's move is withdrawn by itself, and by the supervisor. -/
def waitingFor14 : State := deck fun t => { t with state := .failed, position := none, queue := [⟨9, .operator 14, some 0, none, none⟩] }

theorem test_whoHearsOfAWithdrawal : resultOf (.withdrawMove 14 7 9) (polling 14 waitingFor14) = some (.done, .nothing)
    ∧ hasFlag (after (.withdrawMove 14 7 9) (polling 14 waitingFor14)) 14 .turntable = false
    ∧ hasFlag (after (.withdrawMove 0 7 9) waitingFor14) 14 .turntable = true
    ∧ isEnrolled waitingFor14 14 = true
    ∧ gives (polling 14 (deck fun t => { t with state := .failed, queue := [⟨9, .demo 0, some 0, none, none⟩] }))
      [(.withdrawMove 14 7 9, .notPermitted)]
    ∧ (after (.withdrawMove 0 7 9) { waitingFor14 with tt := { waitingFor14.tt with
        queue := [⟨9, .operator 14, some 0, none, none⟩, ⟨9, .operator 0, some 1, none, none⟩] } }).tt.queue.map (·.kind)
      = [.operator 0] := by decide +kernel

/-! ### Boards that return, and what is discarded -/

/-- The SIGNAL board is PRESENT again, its owners not having heard. -/
def signalsBack : State :=
  let s := ownersLeave 2 (away 2 opened)
  { s with boards := tupd s.boards 2 fun b => { b with state := .present, repollTimer := none } }

theorem test_sound_signalsBack : AllSound signalsBack := allSound_of_test (by decide +kernel)

theorem test_returns : ((getRes signalsBack 0).map (·.state)) = some .proved ∧ (tget signalsBack.signals 2).controlled = false
    ∧ (tget (ownersReturn 2 signalsBack).signals 2).controlled = true
    ∧ ((getRes (ownersReturn 2 signalsBack) 0).map (·.state)) = some .opened
    ∧ (tget (ownersReturn 2 signalsBack).signals 2).aspect ≠ .danger
    ∧ (tget (ownersReturn 3 tripped).districts 0).retryTimer = some 5000
    ∧ (ownersReturn 4 { ready with tt := { ready.tt with lastIndexCount := some 7 } }).tt.lastIndexCount = none
    ∧ (tget (tget (ownersReturn 5 ready).depBoards 3).lines 7).mark = true := by decide +kernel

theorem test_aReturnThatChangesNothing : ownersReturn 0 ready = ready := rfl

theorem test_reportsOutsideAGrant : (tget (after (.report 0 (detectors 10)) (exchange (.refresh 6) ready)).boards 6).missCount = 1
    ∧ (tget (after (.report 31 (detectors 10)) (exchange (.refresh 6) ready)).boards 6).missCount = 0
    ∧ (tget (after (.report 0 (detectors 10)) (exchange (.line 5 7 []) ready)).boards 5).missCount = 1 := by decide +kernel

/-- A frame of an address that is not configured is discarded whatever is outstanding. -/
theorem test_unknownAddressesAreDiscarded : 
    (after (.image 31 (detectors 10) false) (exchange .grant ready)).fieldLink.outstanding = .grant
    ∧ (after (.lineTaken 31 7 false) (exchange .grant ready)).fieldLink.outstanding = .grant
    ∧ (after (.image 31 (detectors 10) false) (exchange (.refresh 0) ready)).fieldLink.outstanding = .refresh 0 := by decide +kernel

/-- An answer that is not the exchange's is a miss of its board, and ends a grant. -/
theorem test_answersOfOthers : (tget (after (.image 0 (detectors 10) false) (exchange (.refresh 6) ready)).boards 6).missCount = 1
    ∧ (tget (after (.image 5 .display false) (exchange (.line 5 7 []) ready)).boards 5).missCount = 1
    ∧ (after (.image 0 (detectors 10) false) (exchange .grant ready)).fieldLink.outstanding = .refresh 0
    ∧ (tget (after (.lineTaken 5 6 false) (exchange (.line 5 7 []) ready)).boards 5).missCount = 1
    ∧ (tget (after (.lineTaken 5 7 false) (exchange (.refresh 0) ready)).boards 0).missCount = 1
    ∧ (after (.lineTaken 5 7 false) (exchange .grant ready)).fieldLink.outstanding = .refresh 0
    ∧ (after (.lineTaken 5 7 false) ready).fieldLink.outstanding = .quiet := by decide +kernel

/-- Two boards wait for a LINE; the first that was asked is sent first. -/
theorem test_linesThatAreDue : (after .grantTimeout (exchange .grant { addBoard 7 .display { ready with
      depBoards := tupd ready.depBoards 2 fun b => { b with addr := some 7 } } with
        fieldLink := { ready.fieldLink with outstanding := .grant, lineDue := [7, 5] } })).fieldLink.outstanding
      = .line 7 0 (List.replicate 32 space) := by decide +kernel

/-- Trailing bytes and the address bits 6 to 4 do not make a reply bad; a REQUEST without a code is an unknown request. -/
theorem test_repliesAtTheEdges : replyRow 3 [0x5A, 0x03, 0x03, 0x07, 0x01, 0x62, 0x9E, 0x47, 0xFF] = some (.readStatus 3 7)
    ∧ panelReply 14 (frameBytes ⟨0x7E, 0x02, 0x00, []⟩) = .idle ∧ panelReply 14 (frameBytes ⟨0x8E, 0x02, 0x00, []⟩) = .bad
    ∧ replyRow 3 (frameBytes ⟨0x03, 0x03, 0x07, []⟩) = some (.unknownRequest 3 7 (Config.absentCode 7)) := by
  have h : panelReply 3 (frameBytes ⟨0x03, 0x03, 0x07, []⟩) = .request 7 [] := by decide +kernel
  refine ⟨by decide +kernel, by decide +kernel, by decide +kernel, ?_⟩
  unfold replyRow
  rw [h]
  rfl

/-- An edit that gives a text too long of its own and returns to the train's is refused. -/
theorem test_anEditOfBothTexts : gives annWaiting [(editAnn 0 ⟨none, some (.both (List.replicate 17 0x41)), none⟩, .badRequest)] := by
  decide +kernel

/-- Both kinds of demonstration wait when open-day mode goes off: a DEMO move, and a reservation. -/
def demosWaiting : State := press 7 (press 0 (occupy 21 .occupied openDay))

theorem test_sound_demosWaiting : AllSound demosWaiting := allSound_of_test (by decide +kernel)

theorem test_openDayOffCountsBoth : demosWaiting.tt.queue.length = 1
    ∧ resultOf (.setOpenDay 0 7 (some false)) demosWaiting = some (.done, .openDayOff 1 1) := by decide +kernel

/-- Open-day mode is on over a state; and what is left when it goes off. -/
def opening (s : State) : State := { s with openDay := true }
def closed (s : State) : State := after (.setOpenDay 0 7 (some false)) (opening s)

/-- The turntable runs a DEMO move, and moves of three kinds wait behind it. -/
def demosBehind : State :=
  let s := press 0 openDay
  { s with tt := { s.tt with queue := [⟨5, .operator 14, some 1, none, some 9⟩, ⟨6, .demo 0, some 3, none, none⟩, ⟨7, .operator 0, some 2, none, none⟩] } }

theorem test_sound_closing : AllSound (opening (demonstrating opened)) ∧ AllSound (opening (demonstrating approached))
    ∧ AllSound (opening (demonstrating setting)) ∧ AllSound (opening (demonstrating stalled))
    ∧ AllSound (opening (demonstrating (seen setting))) ∧ AllSound (opening (demonstrating (seen stalled))) ∧ AllSound demosBehind :=
  ⟨allSound_of_test (by decide +kernel), allSound_of_test (by decide +kernel), allSound_of_test (by decide +kernel),
    allSound_of_test (by decide +kernel), allSound_of_test (by decide +kernel), allSound_of_test (by decide +kernel),
    allSound_of_test (by decide +kernel)⟩

/-- What a demonstration reservation becomes, and whether the first section of its path keeps its lock. -/
def closes (n : SectionId) (s : State) : Option ResState × Bool :=
  ((getRes (closed s) 0).map (·.state), (tget (closed s).sections n).lock.isSome)

theorem test_whatOpenDayOffCancels : closes 14 (demonstrating opened) = (none, false)
    ∧ closes 14 (demonstrating approached) = (some .approachHeld, true)
    ∧ closes 12 (demonstrating setting) = (some .cancelling, false) ∧ closes 12 (demonstrating stalled) = (none, false)
    ∧ closes 12 (demonstrating (seen setting)) = (some .approachHeld, false)
    ∧ closes 12 (demonstrating (seen stalled)) = (some .approachHeld, true)
    ∧ (getRes (closed (demonstrating approached)) 0).bind (·.approachTimer) = some 20000
    ∧ ((closed demosBehind).tt.queue.map (·.number), (closed demosBehind).tt.current.map (·.number)) = ([5, 7], some 0) := by
  decide +kernel

/-- A slot that holds nothing answers none though it is being written. -/
theorem test_anAbsentSlotBeingWritten :
    slotLookUp { ready with slots := tupd ready.slots 5 fun e => { e with writing := true } } 5 = .none := by decide +kernel

/-- A good LINE TAKEN sets the miss count to 0 and leaves the mismatch mark. -/
theorem test_aLineTakenAndTheMark :
    let s := exchange (.line 5 7 []) { ready with boards := tupd ready.boards 5 fun b => { b with missCount := 2, mismatch := true } }
    let b := tget (after (.lineTaken 5 7 false) s).boards 5
    (b.missCount, b.mismatch) = (0, true) := by decide +kernel

end Sys2Proof.Tests
end

section
/-! SUPPORT. The taking of a request (R161, R162, R165): a request of the polled station in READY is answered with what its
handling gives, and the taking itself changes nothing but the station table and the panel link. -/

namespace Sys2Proof.Machine

/-- With RESET not held a command is taken (R173). -/
theorem unlessHeld_eq {s : State} (h : s.resetHeld = false) (f : State → State) : unlessHeld f s = f s := by
  simp [unlessHeld, h]

/-- The number of an item names the item (00, "Numbering"). -/
theorem toId_val {n : Nat} (i : Fin n) : toId n i.val = some i := by simp [toId]

theorem toId_of_le {n k : Nat} (h : n ≤ k) : toId n k = none := by simp [toId, h]

/-- A good reply changes the station table alone (R161, R163). -/
theorem goodReply_eq (st : StationId) (s : State) : goodReply st s = { s with stations := (goodReply st s).stations } := by
  unfold goodReply
  dsimp only
  split
  · rfl
  · rw [stationEvent, setFlag_eq]
    rfl

@[simp] theorem goodReply_sections (st : StationId) (s : State) : (goodReply st s).sections = s.sections := by
  rw [goodReply_eq]

@[simp] theorem goodReply_districts (st : StationId) (s : State) : (goodReply st s).districts = s.districts := by
  rw [goodReply_eq]

@[simp] theorem goodReply_signals (st : StationId) (s : State) : (goodReply st s).signals = s.signals := by
  rw [goodReply_eq]

@[simp] theorem goodReply_trains (st : StationId) (s : State) : (goodReply st s).trains = s.trains := by
  rw [goodReply_eq]

@[simp] theorem goodReply_boards (st : StationId) (s : State) : (goodReply st s).boards = s.boards := by
  rw [goodReply_eq]

@[simp] theorem goodReply_loadState (st : StationId) (s : State) : (goodReply st s).loadState = s.loadState := by
  rw [goodReply_eq]

/-- In READY a request of the polled station is answered with what its handling gives (R161, R162, R165). -/
theorem taken_of_asks {st : StationId} {s : State} (h : Asks st s) (tag code : Byte) (f : State → Handled) :
    unlessHeld (takeRequest st tag code (whenReady f)) s
      = answered st tag code (f (goodReply st s)).1.result (f (goodReply st s)).1.detail (f (goodReply st s)).2 := by
  obtain ⟨⟨hheld, hpolled⟩, hready⟩ := h
  rw [unlessHeld_eq hheld]
  simp [takeRequest, replyFrom, hpolled, whenReady, hready, answered]

/-- The answer to a request changes the panel link and the station table alone (R161, R162). -/
theorem answered_sameTables {s u : State} (h : SameTables s u) (st : StationId) (tag code : Byte) (c : ResultCode)
    (d : Detail) : SameTables s (answered st tag code c d u) := by
  unfold SameTables at h ⊢
  rw [answered, respond, nextPoll_eq, h]
  rfl

theorem goodReply_sameTables (st : StationId) (s : State) : SameTables s (goodReply st s) := by
  unfold SameTables
  rw [goodReply_eq]

end Sys2Proof.Machine
end

section
/-! The reports of READ SECTION and READ SIGNAL (R9, R24). -/

namespace Sys2Proof.Machine

/-! ### READ SECTION (R9) -/

theorem exec_readSection {st : StationId} {s : State} (h : Asks st s) (tag : Byte) (n : Nat) :
    exec (.readSection st tag n) s = .next (answered st tag 0x22 (handleReadSection n (goodReply st s)).1.result
      (handleReadSection n (goodReply st s)).1.detail (goodReply st s)) :=
  congrArg _ (taken_of_asks h tag codeReadSection (handleReadSection n))

theorem handleReadSection_outOfRange {n : Nat} (h : 255 < n) (s : State) :
    (handleReadSection n s).1 = ⟨.badRequest, .nothing⟩ := by
  simp [handleReadSection, unchanged, toId_of_le (Nat.succ_le_of_lt h), plain]

theorem handleReadSection_absent {s : State} {k : SectionId} (h : (tget s.sections k).cfg = none) :
    (handleReadSection k.val s).1 = ⟨.noSuchItem, .item (.sec k)⟩ := by
  simp [handleReadSection, unchanged, toId_val, h, naming]

theorem handleReadSection_configured {s : State} {k : SectionId} {g : SectionCfg} (h : (tget s.sections k).cfg = some g) :
    (handleReadSection k.val s).1 = ⟨.done, .sec {
      occ := (tget s.sections k).occ, clearPending := (tget s.sections k).clearTimer.isSome
      lock := (tget s.sections k).lock, cfg := g, held := cfgHeld s g, head := headIn s k }⟩ := by
  simp [handleReadSection, unchanged, toId_val, h]

/-! ### READ SIGNAL (R24) -/

theorem exec_readSignal {st : StationId} {s : State} (h : Asks st s) (tag : Byte) (n : Nat) :
    exec (.readSignal st tag n) s = .next (answered st tag 0x23 (handleReadSignal n (goodReply st s)).1.result
      (handleReadSignal n (goodReply st s)).1.detail (goodReply st s)) :=
  congrArg _ (taken_of_asks h tag codeReadSignal (handleReadSignal n))

theorem handleReadSignal_outOfRange {n : Nat} (h : 127 < n) (s : State) :
    (handleReadSignal n s).1 = ⟨.badRequest, .nothing⟩ := by
  simp [handleReadSignal, unchanged, toId_of_le (Nat.succ_le_of_lt h), plain]

theorem handleReadSignal_absent {s : State} {x : SignalId} (h : (tget s.signals x).cfg = none) :
    (handleReadSignal x.val s).1 = ⟨.noSuchItem, .item (.signal x)⟩ := by
  simp [handleReadSignal, unchanged, toId_val, h, naming]

theorem handleReadSignal_configured {s : State} {x : SignalId} {g : SignalCfg} (h : (tget s.signals x).cfg = some g) :
    (handleReadSignal x.val s).1 = ⟨.done, .signal {
      aspect := (tget s.signals x).aspect, controlled := (tget s.signals x).controlled
      entranceOf := (tget s.signals x).entranceOf, cfg := g }⟩ := by
  simp [handleReadSignal, unchanged, toId_val, h]

/-- A good reply does not change whether a section is held (R2, R6). -/
theorem goodReply_cfgHeld (st : StationId) (s : State) (g : SectionCfg) :
    cfgHeld (goodReply st s) g = cfgHeld s g := by
  simp [cfgHeld, boardPresent]

theorem goodReply_headIn (st : StationId) (s : State) (k : SectionId) : headIn (goodReply st s) k = headIn s k := by
  simp [headIn]

/-- Settles O17: each of the two requests is taken and answered with the reply of its handler, whose three cases are its
range check, an item that is not configured, and the report. -/
theorem readSectionAndReadSignalReport : Obligations.ReadSectionAndReadSignalReport := by
  unfold Obligations.ReadSectionAndReadSignalReport
  refine ⟨fun st tag n s h => ?_, fun st tag n s h => ?_⟩
  · have hexec := exec_readSection h tag n
    refine ⟨fun hn => ?_, fun k hk => ⟨fun hc => ?_, fun g hc => ?_⟩, fun t ht => ?_⟩
    · rw [hexec, handleReadSection_outOfRange hn]
    · subst hk
      rw [hexec, handleReadSection_absent (by rw [goodReply_sections]; exact hc)]
    · subst hk
      rw [hexec, handleReadSection_configured (by rw [goodReply_sections]; exact hc), goodReply_sections,
        goodReply_cfgHeld, goodReply_headIn]
      rfl
    · rw [hexec] at ht
      cases ht
      exact answered_sameTables (goodReply_sameTables st s) ..
  · have hexec := exec_readSignal h tag n
    refine ⟨fun hn => ?_, fun x hx => ⟨fun hc => ?_, fun g hc => ?_⟩, fun t ht => ?_⟩
    · rw [hexec, handleReadSignal_outOfRange hn]
    · subst hx
      rw [hexec, handleReadSignal_absent (by rw [goodReply_signals]; exact hc)]
    · subst hx
      rw [hexec, handleReadSignal_configured (by rw [goodReply_signals]; exact hc), goodReply_signals]
    · rw [hexec] at ht
      cases ht
      exact answered_sameTables (goodReply_sameTables st s) ..

end Sys2Proof.Machine
end

section
/-! SUPPORT. What a section change and a move of the turntable leave alone (R7, R57, R75 to R79, R114, R120): the
occupancies of the sections, the power districts and the boosters. `Steady a s` is kept by every operation that they run. -/

namespace Sys2Proof.Machine

/-- A section's entry but for its lock. -/
def SectionRec.unlocked (e : SectionRec) : SectionRec := { e with lock := none }

/-- Whether a board is PRESENT, with its booster enables. -/
def BoardRec.supply (b : BoardRec) : BoardState × Vector Bool 8 := (b.state, b.image.enables)

/-- From `a` to `s` no section changes but in its lock, no district changes, no board changes its state or its booster
enables, and no event flag is cleared. -/
structure Steady (a s : State) : Prop where
  sections : tmap SectionRec.unlocked s.sections = tmap SectionRec.unlocked a.sections
  districts : s.districts = a.districts
  boards : tmap BoardRec.supply s.boards = tmap BoardRec.supply a.boards
  flags : ∀ x f, hasFlag a x f = true → hasFlag s x f = true

theorem Steady.refl (a : State) : Steady a a := ⟨rfl, rfl, rfl, fun _ _ h => h⟩

/-- A change of nothing that `Steady` speaks of. -/
theorem Steady.frame {a s t : State} (h : Steady a s) (h1 : t.sections = s.sections) (h2 : t.districts = s.districts)
    (h3 : t.boards = s.boards) (h4 : t.stations = s.stations) : Steady a t := by
  refine ⟨?_, ?_, ?_, ?_⟩
  · rw [h1]; exact h.sections
  · rw [h2]; exact h.districts
  · rw [h3]; exact h.boards
  · unfold hasFlag; rw [h4]; exact h.flags

theorem Steady.unlocked {a s : State} (h : Steady a s) (n : SectionId) :
    (tget s.sections n).unlocked = (tget a.sections n).unlocked := by
  simpa using congrArg (tget · n) h.sections

theorem Steady.occ {a s : State} (h : Steady a s) (n : SectionId) :
    (tget s.sections n).occ = (tget a.sections n).occ := (congrArg SectionRec.occ (h.unlocked n) :)

theorem Steady.clearTimer {a s : State} (h : Steady a s) (n : SectionId) :
    (tget s.sections n).clearTimer = (tget a.sections n).clearTimer := (congrArg SectionRec.clearTimer (h.unlocked n) :)

theorem Steady.enables {a s : State} (h : Steady a s) (b : BoardIdx) :
    (tget s.boards b).image.enables = (tget a.boards b).image.enables := by
  have hb : (tget s.boards b).supply = (tget a.boards b).supply := by simpa using congrArg (tget · b) h.boards
  exact congrArg Prod.snd hb

theorem ite_steady {a s t : State} {c : Prop} [Decidable c] (h : Steady a s) (g : Steady a t) :
    Steady a (if c then s else t) := by
  split
  · exact h
  · exact g

theorem forEach_steady {ι : Type} {a s : State} (l : List ι) (f : ι → State → State)
    (hf : ∀ i s, Steady a s → Steady a (f i s)) (h : Steady a s) : Steady a (forEach l f s) := forEach_induct hf l h

/-! ### Flags, images and locks -/

theorem setFlag_steady {a s : State} (f : EventFlag) (st : StationId) (h : Steady a s) : Steady a (setFlag f st s) := by
  refine ⟨by simp [h.sections], by simp [h.districts], by simp [h.boards], fun x g hg => ?_⟩
  have hs := h.flags x g hg
  unfold setFlag
  split
  · simp only [hasFlag, tget_tupd] at hs ⊢
    split
    · rw [tget_tput, hs]
      simp
    · exact hs
  · exact hs

theorem setFlags_steady {a s : State} (f : EventFlag) (l : List StationId) (h : Steady a s) : Steady a (setFlags f l s) :=
  forEach_steady _ _ (fun st _ g => setFlag_steady f st g) h

theorem setFlagAll_steady {a s : State} (f : EventFlag) (h : Steady a s) : Steady a (setFlagAll f s) :=
  setFlags_steady f _ h

theorem setOwnerFlag_steady {a s : State} (f : EventFlag) (o : Owner) (h : Steady a s) :
    Steady a (setOwnerFlag f o s) := by
  cases o
  · exact setFlag_steady f _ h
  · exact h

/-- A change of an output image that leaves its booster enables alone. -/
theorem setImage_steady {a s : State} (b : BoardIdx) (f : OutputImage → OutputImage) (hf : ∀ i, (f i).enables = i.enables)
    (h : Steady a s) : Steady a (setImage b f s) :=
  ⟨h.sections, h.districts, (tmap_tupd _ _ b _ fun e => by simp [BoardRec.supply, hf]).trans h.boards, h.flags⟩

theorem setTtOutputs_steady {a s : State} (f : OutputImage → OutputImage) (hf : ∀ i, (f i).enables = i.enables)
    (h : Steady a s) : Steady a (setTtOutputs f s) := by
  unfold setTtOutputs
  split
  · exact h
  · exact setImage_steady _ f hf h

theorem updRes_steady {a s : State} (r : ResId) (f : Reservation → Reservation) (h : Steady a s) :
    Steady a (updRes r f s) := h.frame rfl rfl rfl rfl

theorem setRes_steady {a s : State} (r : ResId) (x : Option Reservation) (h : Steady a s) : Steady a (setRes r x s) :=
  h.frame rfl rfl rfl rfl

theorem setTt_steady {a s : State} (f : Turntable → Turntable) (h : Steady a s) : Steady a (setTt f s) :=
  h.frame rfl rfl rfl rfl

theorem updTrain_steady {a s : State} (t : TrainId) (f : Train → Train) (h : Steady a s) : Steady a (updTrain t f s) :=
  h.frame rfl rfl rfl rfl

theorem releaseSection_steady {a s : State} (n : SectionId) (r : ResId) (h : Steady a s) :
    Steady a (releaseSection n r s) := by
  unfold releaseSection
  split
  · exact ⟨(tmap_tupd _ _ n (fun e => { e with lock := none }) fun _ => rfl).trans h.sections, h.districts, h.boards, h.flags⟩
  · exact h

theorem releasePoint_steady {a s : State} (p : PointId) (r : ResId) (h : Steady a s) : Steady a (releasePoint p r s) :=
  ite_steady (h.frame rfl rfl rfl rfl) h

/-! ### Signals and displays (R21, R22, R134 to R138, R144) -/

theorem recordAspect_steady {a s : State} (sg : SignalId) (x : Aspect) (h : Steady a s) :
    Steady a (recordAspect sg x s) := by
  unfold recordAspect
  dsimp only
  split
  · exact h.frame rfl rfl rfl rfl
  · exact setImage_steady _ _ (fun _ => rfl) (h.frame rfl rfl rfl rfl)

theorem cascade_steady {a s : State} (n : Nat) (l : List SignalId) (h : Steady a s) : Steady a (cascade n l s) := by
  induction n generalizing l s with
  | zero => exact h
  | succ n ih =>
    cases l with
    | nil => exact h
    | cons sg rest => exact ite_steady (ih rest h) (ih _ (recordAspect_steady _ _ h))

theorem deriveSignal_steady {a s : State} (sg : SignalId) (h : Steady a s) : Steady a (deriveSignal sg s) :=
  cascade_steady _ _ h

theorem renderLine_steady {a s : State} (b : DepBoardId) (p : LineNo) (h : Steady a s) : Steady a (renderLine b p s) :=
  ite_steady h (h.frame rfl rfl rfl rfl)

theorem renderAnn_steady {a s : State} (b : DepBoardId) (n : AnnId) (h : Steady a s) : Steady a (renderAnn b n s) := by
  unfold renderAnn
  split
  · exact renderLine_steady _ _ h
  · exact h

theorem putAnn_steady {a s : State} (n : AnnId) (v : Announcement) (h : Steady a s) : Steady a (putAnn n v s) :=
  setFlags_steady _ _ (renderAnn_steady _ _ (h.frame rfl rfl rfl rfl))

theorem testAnn_steady {a s : State} (t : Option TrainId) (n : AnnId) (h : Steady a s) : Steady a (testAnn t n s) := by
  unfold testAnn
  split
  · exact h
  · exact ite_steady h (putAnn_steady _ _ h)

theorem reservationReport_steady {a s : State} (sg : SignalId) (t : Option TrainId) (h : Steady a s) :
    Steady a (reservationReport sg t s) := forEach_steady _ _ (fun n _ g => testAnn_steady t n g) h

theorem setButtonState_steady {a s : State} (b : ButtonId) (x : ButtonState) (h : Steady a s) :
    Steady a (setButtonState b x s) := by
  unfold setButtonState
  dsimp only
  split
  · exact h.frame rfl rfl rfl rfl
  · exact setImage_steady _ _ (fun _ => rfl) (h.frame rfl rfl rfl rfl)

theorem busyEnds_steady {a s : State} (w : BusyWith) (h : Steady a s) : Steady a (busyEnds w s) :=
  forEach_steady _ _ (fun b _ g => setButtonState_steady b _ (g.frame rfl rfl rfl rfl)) h

/-! ### The interlocking's changes (R57, R65 to R68) -/

theorem changeState_steady {a s : State} (r : ResId) (x : ResState) (h : Steady a s) : Steady a (changeState r x s) := by
  unfold changeState
  split
  · exact h
  · have h1 : ∀ v, Steady a (setRes r v s) := fun v => setRes_steady r v h
    exact ite_steady h (setOwnerFlag_steady _ _ (reservationReport_steady _ _
      (ite_steady (deriveSignal_steady _ (h1 _)) (h1 _))))

theorem setFault_steady {a s : State} (r : ResId) (n : FaultNote) (h : Steady a s) : Steady a (setFault r n s) := by
  unfold setFault
  split
  · exact h
  · exact setFlag_steady _ _ (setOwnerFlag_steady _ _ (updRes_steady _ _ h))

theorem testOpen_steady {a s : State} (r : ResId) (h : Steady a s) : Steady a (testOpen r s) := by
  unfold testOpen
  split
  · exact h
  · split
    · exact ite_steady (changeState_steady _ _ h) h
    · exact ite_steady h (changeState_steady _ _ h)
    · exact h

theorem recheck_steady {a s : State} (r : ResId) (h : Steady a s) : Steady a (recheck r s) := by
  have lost : ∀ n f, Steady a (setFault r n (changeState r .setting (updRes r f s))) := fun _ _ =>
    setFault_steady _ _ (changeState_steady _ _ (updRes_steady _ _ h))
  unfold recheck
  dsimp only
  split
  · exact h
  · split
    · exact ite_steady (testOpen_steady _ (changeState_steady _ _ (updRes_steady _ _ h))) (updRes_steady _ _ h)
    · exact ite_steady (lost _ _) h
    · exact ite_steady (lost _ _) h
    · exact h

theorem pointChanged_steady {a s : State} (l : PointLock) (h : Steady a s) : Steady a (pointChanged l s) := by
  unfold pointChanged
  split
  · exact recheck_steady _ h
  · exact h

theorem turntableChanged_steady {a s : State} (h : Steady a s) : Steady a (turntableChanged s) := by
  unfold turntableChanged
  split
  · exact h
  · exact testOpen_steady _ (recheck_steady _ h)

/-! ### The throw queue (R30 to R34) -/

theorem drivePoint_steady {a s : State} (p : PointId) (d : PointDrive) (h : Steady a s) : Steady a (drivePoint p d s) := by
  unfold drivePoint
  split
  · exact h
  · exact setImage_steady _ _ (fun _ => rfl) h

theorem startThrow_steady {a s : State} (o : ThrowOrder) (rest : List ThrowOrder) (h : Steady a s) :
    Steady a (startThrow o rest s) :=
  pointChanged_steady _ (drivePoint_steady _ _ (h.frame rfl rfl rfl rfl))

theorem considerOrders_steady {a s : State} (l : List ThrowOrder) (h : Steady a s) : Steady a (considerOrders l s) := by
  induction l generalizing s with
  | nil => exact h
  | cons o rest ih =>
    exact ite_steady (ite_steady (ih (setFlags_steady _ _ (h.frame rfl rfl rfl rfl))) (startThrow_steady o rest h)) h

theorem removeOrders_steady {a s : State} (r : ResId) (l : Option (List PointId)) (h : Steady a s) :
    Steady a (removeOrders r l s) := by
  have h1 : Steady a { s with throwQueue := s.throwQueue.filter fun o => !orderNamed r l o } := h.frame rfl rfl rfl rfl
  exact ite_steady (considerOrders_steady _ h1) h1

theorem disown_steady {a s : State} (r : ResId) (h : Steady a s) : Steady a (disown r s) :=
  forEach_steady _ _ (fun _ _ g => g.frame rfl rfl rfl rfl) h

/-! ### The turntable's queue (R110, R113 to R116, R124) -/

theorem reportMove_steady {a s : State} (m : Move) (h : Steady a s) : Steady a (reportMove m s) := by
  unfold reportMove
  split
  · exact setFlags_steady _ _ h
  · exact busyEnds_steady _ h
  · exact h
  · exact h

theorem endAtTarget_steady {a s : State} (m : Move) (h : Steady a s) : Steady a (endAtTarget m s) :=
  turntableChanged_steady (reportMove_steady m (setTt_steady _ h))

theorem enterUnbolting_steady {a s : State} (h : Steady a s) : Steady a (enterUnbolting s) :=
  turntableChanged_steady (setTtOutputs_steady _ (fun _ => rfl) (setTt_steady _ h))

theorem considerMoves_steady {a s : State} (n : Nat) (h : Steady a s) : Steady a (considerMoves n s) := by
  induction n generalizing s with
  | zero => exact h
  | succ n ih =>
    unfold considerMoves
    split
    · exact h
    · refine ite_steady ?_ h
      split
      · exact ih (reportMove_steady _ (setTt_steady _ h))
      · exact ite_steady (ih (endAtTarget_steady _ (setTt_steady _ (setTt_steady _ h))))
          (enterUnbolting_steady (setTt_steady _ (setTt_steady _ h)))

theorem considerMove_steady {a s : State} (h : Steady a s) : Steady a (considerMove s) := considerMoves_steady _ h

theorem releaseDeck_steady {a s : State} (r : ResId) (h : Steady a s) : Steady a (releaseDeck r s) :=
  ite_steady (considerMove_steady (setTt_steady _ h)) (setTt_steady _ h)

theorem removeMove_steady {a s : State} (r : ResId) (h : Steady a s) : Steady a (removeMove r s) :=
  ite_steady (considerMove_steady (setTt_steady _ h)) h

/-! ### Retirement and release (R75 to R79) -/

theorem leaveForRetirement_steady {a s : State} (r : ResId) (v : Reservation) (d : RouteDef) (h : Steady a s) :
    Steady a (leaveForRetirement r v d s) :=
  ite_steady (deriveSignal_steady _ (setRes_steady _ _ h)) (setRes_steady _ _ h)

theorem releaseAllSections_steady {a s : State} (r : ResId) (h : Steady a s) : Steady a (releaseAllSections r s) :=
  forEach_steady _ _ (fun n _ g => releaseSection_steady n r g) h

theorem releaseRestingPoints_steady {a s : State} (r : ResId) (h : Steady a s) : Steady a (releaseRestingPoints r s) :=
  forEach_steady _ _ (fun p _ g => releasePoint_steady p r g) h

theorem freeEntry_steady {a s : State} (r : ResId) (sg : SignalId) (h : Steady a s) : Steady a (freeEntry r sg s) :=
  h.frame rfl rfl rfl rfl

theorem retire_steady {a s : State} (r : ResId) (h : Steady a s) : Steady a (retire r s) := by
  unfold retire
  split
  · exact h
  · next v d _ =>
    have withdrawn := removeMove_steady r (removeOrders_steady r none (leaveForRetirement_steady r v d h))
    have unlocked := disown_steady r (releaseRestingPoints_steady r (releaseAllSections_steady r withdrawn))
    have freed := freeEntry_steady r d.entrance (releaseDeck_steady r unlocked)
    have told := setOwnerFlag_steady .route v.owner (reservationReport_steady d.entrance none freed)
    dsimp only
    split
    · exact busyEnds_steady _ told
    · exact told

theorem releaseOverlap_steady {a s : State} (r : ResId) (h : Steady a s) : Steady a (releaseOverlap r s) := by
  unfold releaseOverlap
  split
  · exact h
  · next v d _ =>
    have h1 := forEach_steady (d.overlap.map (·.sec)) _ (fun n _ g => releaseSection_steady n r g) h
    have h2 := forEach_steady (elemPoints d.overlap) _ (fun p _ g => releasePoint_steady p r g) h1
    exact ite_steady h (ite_steady (recheck_steady r (updRes_steady r _ h2)) (updRes_steady r _ h2))

theorem retireIfDone_steady {a s : State} (r : ResId) (h : Steady a s) : Steady a (retireIfDone r s) := by
  unfold retireIfDone
  split
  · exact h
  · exact ite_steady (retire_steady r h) h

theorem releaseElement_steady {a s : State} (r : ResId) (d : RouteDef) (k : Nat) (e : RouteElem) (h : Steady a s) :
    Steady a (releaseElement r d k e s) := by
  have h1 := releaseSection_steady e.sec r h
  have h2 : Steady a (match e.point with
      | none => releaseSection e.sec r s
      | some q => releasePoint q.point r (releaseSection e.sec r s)) := by
    split
    · exact h1
    · exact releasePoint_steady _ r h1
  have h4 := updRes_steady r (fun v => { v with releaseCursor := k + 1 })
    (ite_steady (c := e.deck.isSome = true) (releaseDeck_steady r h2) h2)
  exact ite_steady (releaseOverlap_steady r h4) h4

theorem releaseLoop_steady {a s : State} (n : Nat) (r : ResId) (h : Steady a s) : Steady a (releaseLoop n r s) := by
  induction n generalizing s with
  | zero => exact h
  | succ n ih =>
    unfold releaseLoop
    split
    · exact h
    · split
      · exact h
      · exact ite_steady (ih (releaseElement_steady _ _ _ _ h)) h

theorem sectionalRelease_steady {a s : State} (r : ResId) (h : Steady a s) : Steady a (sectionalRelease r s) :=
  retireIfDone_steady r (releaseLoop_steady _ r h)

/-! ### The failure of the turntable (R69, R84, R120) -/

theorem ownedMoveEnded_steady {a s : State} (r : ResId) (o : MoveOutcome) (h : Steady a s) :
    Steady a (ownedMoveEnded r o s) := by
  unfold ownedMoveEnded
  split
  · exact h
  · split
    · exact ite_steady h (setFault_steady _ _ h)
    · have h1 := releaseDeck_steady r h
      exact ite_steady h1 (retire_steady r h1)
    · exact h

theorem moveEnded_steady {a s : State} (m : Move) (o : MoveOutcome) (h : Steady a s) : Steady a (moveEnded m o s) := by
  unfold moveEnded
  split
  · exact ownedMoveEnded_steady _ _ h
  · exact reportMove_steady _ h

theorem deckFault_steady {a s : State} (w : Option ResId) (h : Steady a s) : Steady a (deckFault w s) := by
  unfold deckFault
  split
  · exact h
  · exact setFault_steady _ _ h

theorem enterFailed_steady {a s : State} (h : Steady a s) : Steady a (enterFailed s) := by
  refine ite_steady (forEach_steady _ _ (fun m _ g => moveEnded_steady m _ g) ?_) h
  have told := setFlag_steady .turntable supervisor (deckFault_steady (awaitsDeck s) (turntableChanged_steady
    (setTt_steady (fun t => { t with
      state := .failed, phase := none, stageTimer := none, lastPosition := t.remembered, position := none,
      current := none, queue := [], deckLock := t.deckLock.atMoveEnd })
      (setTtOutputs_steady (fun i => { i with ttDrive := .stop }) (fun _ => rfl) h))))
  split
  · exact told
  · exact moveEnded_steady _ _ told

theorem turntableSection_steady {a s : State} (n : SectionId) (x : Occupancy) (h : Steady a s) :
    Steady a (turntableSection n x s) := by
  unfold turntableSection
  split
  · exact h
  · exact ite_steady (considerMove_steady (ite_steady (enterFailed_steady h) h)) (ite_steady (enterFailed_steady h) h)

/-! ### A section change and its takers (R7, R66, R75, R98) -/

theorem trainEvent_steady {a s : State} (l : Option SectionLock) (h : Steady a s) : Steady a (trainEvent l s) := by
  unfold trainEvent
  dsimp only
  split
  · exact setFlag_steady _ _ h
  · exact setOwnerFlag_steady _ _ (setFlag_steady _ _ h)

theorem headSectionClears_steady {a s : State} (n : SectionId) (l : Option SectionLock) (h : Steady a s) :
    Steady a (headSectionClears n l s) := by
  unfold headSectionClears
  split
  · exact h
  · have told : ∀ t f, Steady a (trainEvent l (updTrain t f s)) := fun t f =>
      trainEvent_steady l (updTrain_steady t f h)
    exact ite_steady (ite_steady (considerMove_steady (told _ _)) (told _ _)) (ite_steady h (told _ _))

/-- A section change reaches no occupancy, no clear-delay timer, no district and no booster (R7). -/
theorem sectionChanged_steady {a s : State} (n : SectionId) (x : Occupancy) (l : Option SectionLock) (h : Steady a s) :
    Steady a (sectionChanged n x l s) := by
  have h1 : Steady a (if x = .clear then headSectionClears n l s else s) :=
    ite_steady (headSectionClears_steady n l h) h
  have h2 : Steady a (releaseAt n _) := forEach_steady _ _ (fun r _ g => sectionalRelease_steady r g) h1
  exact turntableSection_steady n x (forEach_steady _ _ (fun r _ g => testOpen_steady r g) h2)

end Sys2Proof.Machine
end

section
/-! The expiry of a clear-delay timer (R5) and a fault taken in NORMAL (R13, R17). -/

namespace Sys2Proof.Machine

/-! ### Event flags for every station (R167) -/

theorem isEnrolled_setFlag (f : EventFlag) (st x : StationId) (s : State) :
    isEnrolled (setFlag f st s) x = isEnrolled s x := by
  have henrolled : (tget (setFlag f st s).stations x).enrolled = (tget s.stations x).enrolled := by
    unfold setFlag
    split
    · simp only [tget_tupd]
      split <;> rfl
    · rfl
  simp [isEnrolled, henrolled]

theorem hasFlag_setFlag_same (f : EventFlag) {st : StationId} {s : State} (h : isEnrolled s st = true) :
    hasFlag (setFlag f st s) st f = true := by
  simp [setFlag, h, hasFlag]

/-- A flag set for a list of stations is set for each of them that is enrolled. -/
theorem hasFlag_setFlags (f : EventFlag) {l : List StationId} {x : StationId} {s : State} (hx : x ∈ l)
    (h : isEnrolled s x = true) : hasFlag (setFlags f l s) x f = true := by
  induction l generalizing s with
  | nil => simp at hx
  | cons st rest ih =>
    rcases List.mem_cons.mp hx with rfl | hrest
    · exact (setFlags_steady f rest (Steady.refl (setFlag f x s))).flags x f (hasFlag_setFlag_same f h)
    · exact ih hrest (by rw [isEnrolled_setFlag]; exact h)

theorem setFlagAll_allTold (f : EventFlag) (s : State) : AllTold s (setFlagAll f s) f :=
  fun x h => hasFlag_setFlags f (List.mem_finRange x) h

/-! ### Holding and clearing (R5, R6) -/

/-- The entry of a section whose occupancy is written. -/
def SectionRec.withOcc (x : Occupancy) (e : SectionRec) : SectionRec := { e with occ := x, clearTimer := none }

theorem putOcc_steady {a s : State} (n : SectionId) (x : Occupancy) (h : Steady a s) :
    Steady (putOcc n x a) (putOcc n x s) := by
  refine ⟨table_ext fun m => ?_, h.districts, h.boards, h.flags⟩
  have hm := h.unlocked m
  simp only [putOcc_sections, tget_tmap, tget_tupd]
  split
  · exact (congrArg (SectionRec.withOcc x) hm :)
  · exact hm

/-- Holding a section writes its occupancy and reaches no other (R6). -/
theorem holdSection_steady {a s : State} (n : SectionId) (h : Steady a s) :
    Steady (putOcc n .unknown a) (holdSection n s) :=
  ite_steady (putOcc_steady n _ h) (sectionChanged_steady n _ _ (putOcc_steady n _ h))

/-- Sections are made UNKNOWN, each with clear pending no. -/
def putUnknown (l : List SectionId) (s : State) : State := forEach l (fun n => putOcc n .unknown) s

/-- Holding several sections writes their occupancies and reaches no other (R6). -/
theorem holdSections_steady (l : List SectionId) {a s : State} (h : Steady a s) :
    Steady (putUnknown l a) (forEach l holdSection s) := by
  induction l generalizing a s with
  | nil => exact h
  | cons n rest ih => exact ih (holdSection_steady n h)

/-- Writing occupancies changes the section table alone. -/
theorem putUnknown_eq (l : List SectionId) (s : State) : putUnknown l s = { s with sections := (putUnknown l s).sections } := by
  induction l generalizing s with
  | nil => rfl
  | cons n rest ih =>
    unfold putUnknown at ih ⊢
    rw [forEach_cons, ih]
    rfl

theorem tget_putUnknown_sections (l : List SectionId) (s : State) (m : SectionId) :
    tget (putUnknown l s).sections m
      = if m ∈ l then (tget s.sections m).withOcc .unknown else tget s.sections m := by
  induction l generalizing s with
  | nil => simp [putUnknown]
  | cons n rest ih =>
    have hcons : putUnknown (n :: rest) s = putUnknown rest (putOcc n .unknown s) := rfl
    rw [hcons, ih, putOcc_sections, tget_tupd]
    by_cases hn : n = m
    · subst hn
      simp [SectionRec.withOcc]
    · simp [hn, Ne.symm hn]

/-- Clearing a section that is not CLEAR hands the change on with the lock as it stood (R5, R7). -/
theorem clearSection_of_ne {n : SectionId} {s : State} (h : (tget s.sections n).occ ≠ .clear) :
    clearSection n s = sectionChanged n .clear (tget s.sections n).lock (putOcc n .clear s) := by
  rw [clearSection, if_neg (by exact h)]
  rfl

theorem exec_clearDelayExpiry {s : State} (h : s.resetHeld = false) (n : SectionId) :
    exec (.clearDelayExpiry n) s = .next (clearDelayExpires n s) := congrArg _ (unlessHeld_eq h _)

/-- Settles O20: the section is written CLEAR, and the change that is handed on reaches no occupancy. -/
theorem aClearDelayExpiryClearsTheSection : Obligations.AClearDelayExpiryClearsTheSection := by
  unfold Obligations.AClearDelayExpiryClearsTheSection
  intro n s hheld hsound
  rw [exec_clearDelayExpiry hheld]
  refine ⟨fun hstopped => by rw [clearDelayExpires, if_pos hstopped], fun hruns => ?_⟩
  have hocc : (tget s.sections n).occ ≠ .clear := fun hclear => hruns (hsound n hclear)
  have hexpires : clearDelayExpires n s = sectionChanged n .clear (tget s.sections n).lock (putOcc n .clear s) := by
    rw [clearDelayExpires, if_neg hruns, clearSection_of_ne hocc]
  have hsteady := sectionChanged_steady n .clear (tget s.sections n).lock (Steady.refl (putOcc n .clear s))
  rw [← hexpires] at hsteady
  refine ⟨clearDelayExpires n s, rfl, ?_, ?_, hexpires, fun m hm => ⟨?_, ?_⟩⟩
  · rw [hsteady.occ, putOcc_sections, tget_tupd_same]
  · rw [hsteady.clearTimer, putOcc_sections, tget_tupd_same]
  · rw [hsteady.occ, putOcc_sections, tget_tupd_ne _ (Ne.symm hm)]
  · rw [hsteady.clearTimer, putOcc_sections, tget_tupd_ne _ (Ne.symm hm)]

/-! ### A district that trips (R11, R13, R17) -/

/-- A booster enable changes no table but that of the boards. -/
theorem boosterEnable_eq (d : DistrictId) (on : Bool) (s : State) :
    boosterEnable d on s = { s with boards := (boosterEnable d on s).boards } := by
  unfold boosterEnable
  split <;> rfl

theorem boosterEnable_enables {d : DistrictId} {on : Bool} {s : State} {g : DistrictCfg}
    (h : (tget s.districts d).cfg = some g) :
    tget (tget (boosterEnable d on s).boards g.board).image.enables g.channel = on := by
  simp [boosterEnable, h, setEnable]

theorem boosterEnable_boardPresent (d : DistrictId) (on : Bool) (s : State) (b : BoardIdx) :
    boardPresent (boosterEnable d on s) b = boardPresent s b := by
  unfold boosterEnable
  split
  · rfl
  · simp only [boardPresent, setEnable, setImage_boards, tget_tupd]
    split <;> rfl

/-- The sections that a district holds as it leaves NORMAL: its own whose board is PRESENT (R6). -/
theorem mem_sectionsToHold {s : State} {d : DistrictId} {n : SectionId} {g : SectionCfg}
    (h : (tget s.sections n).cfg = some g) : n ∈ sectionsToHold s d ↔ g.district = d ∧ boardPresent s g.board = true := by
  simp [sectionsToHold, h]

/-- A district that has left NORMAL: the event is set, its sections are held, and nothing else of the track's occupancies,
the districts and the boosters changes (R6, R17). -/
theorem districtChanged_leaves_normal {d : DistrictId} {s : State} (h : (tget s.districts d).state ≠ .normal) :
    Steady (putUnknown (sectionsToHold s d) (setFlagAll .district s)) (districtChanged d .normal s) := by
  have hold : sectionsToHold (setFlagAll .district s) d = sectionsToHold s d := by
    simp [sectionsToHold, boardPresent]
  unfold districtChanged
  dsimp only
  rw [if_pos ⟨rfl, by rw [setFlagAll_districts]; exact h⟩, hold]
  exact forEach_steady _ _ (fun r _ g => testOpen_steady r g) (holdSections_steady _ (Steady.refl _))

/-- A district as a fault taken in NORMAL leaves it (R13). -/
def DistrictRec.trip (e : DistrictRec) : DistrictRec :=
  { e with state := .tripped, retryTimer := some 5000, faultFilter := none }

/-- The state in which a fault taken in NORMAL is handed on: the district TRIPPED with its booster off (R13). -/
def tripDistrict (d : DistrictId) (s : State) : State := boosterEnable d false (setDistrict d DistrictRec.trip s)

theorem tripDistrict_districts (d : DistrictId) (s : State) :
    (tripDistrict d s).districts = tupd s.districts d DistrictRec.trip := by
  rw [tripDistrict, boosterEnable_eq]
  rfl

theorem tripDistrict_sections (d : DistrictId) (s : State) : (tripDistrict d s).sections = s.sections := by
  rw [tripDistrict, boosterEnable_eq]
  rfl

theorem tripDistrict_isEnrolled (d : DistrictId) (s : State) (x : StationId) :
    isEnrolled (tripDistrict d s) x = isEnrolled s x := by
  rw [tripDistrict, boosterEnable_eq]
  rfl

theorem tripDistrict_boardPresent (d : DistrictId) (s : State) (b : BoardIdx) :
    boardPresent (tripDistrict d s) b = boardPresent s b := boosterEnable_boardPresent ..

theorem tripDistrict_enables {d : DistrictId} {s : State} {g : DistrictCfg} (h : (tget s.districts d).cfg = some g) :
    tget (tget (tripDistrict d s).boards g.board).image.enables g.channel = false :=
  boosterEnable_enables (by rw [setDistrict_districts, tget_tupd_same]; exact h)

theorem faultIn_of_normal {d : DistrictId} {s : State} (h : (tget s.districts d).state = .normal) :
    faultIn d s = districtChanged d .normal (tripDistrict d s) := by
  simp only [faultIn, h]
  rfl

theorem exec_faultFilterExpiry {d : DistrictId} {s : State} (h : s.resetHeld = false)
    (hruns : (tget s.districts d).faultFilter ≠ none) : exec (.faultFilterExpiry d) s = .next (faultIn d s) := by
  refine congrArg _ ((unlessHeld_eq h _).trans ?_)
  rw [faultFilterExpires, if_neg hruns]

/-- What a fault taken in NORMAL does to the track: the section table as written, and the rest as the district tripped. -/
theorem faultIn_steady {d : DistrictId} {s : State} (h : (tget s.districts d).state = .normal) :
    Steady (putUnknown (sectionsToHold (tripDistrict d s) d) (setFlagAll .district (tripDistrict d s))) (faultIn d s) := by
  rw [faultIn_of_normal h]
  refine districtChanged_leaves_normal ?_
  rw [tripDistrict_districts, tget_tupd_same]
  simp [DistrictRec.trip]

theorem faultIn_districts {d : DistrictId} {s : State} (h : (tget s.districts d).state = .normal) :
    (faultIn d s).districts = tupd s.districts d DistrictRec.trip := by
  rw [(faultIn_steady h).districts, putUnknown_eq, ← tripDistrict_districts]
  exact setFlagAll_districts ..

theorem faultIn_allTold {d : DistrictId} {s : State} (h : (tget s.districts d).state = .normal) :
    AllTold s (faultIn d s) .district := by
  intro x hx
  refine (faultIn_steady h).flags x .district ?_
  rw [putUnknown_eq]
  exact setFlagAll_allTold .district (tripDistrict d s) x (by rw [tripDistrict_isEnrolled]; exact hx)

theorem faultIn_enables {d : DistrictId} {s : State} {g : DistrictCfg} (h : (tget s.districts d).state = .normal)
    (hg : (tget s.districts d).cfg = some g) : tget (tget (faultIn d s).boards g.board).image.enables g.channel = false := by
  rw [(faultIn_steady h).enables, putUnknown_eq]
  simp only [setFlagAll_boards]
  exact tripDistrict_enables hg

/-- A section of the district whose board is PRESENT is held, and every other section stays as it is. -/
theorem faultIn_sections {d : DistrictId} {s : State} {n : SectionId} {g : SectionCfg}
    (h : (tget s.districts d).state = .normal) (hg : (tget s.sections n).cfg = some g) :
    (tget (faultIn d s).sections n).unlocked = (if g.district = d ∧ boardPresent s g.board = true then
      (tget s.sections n).withOcc .unknown else tget s.sections n).unlocked := by
  have hmem := mem_sectionsToHold (s := tripDistrict d s) (d := d) (by rw [tripDistrict_sections]; exact hg)
  rw [tripDistrict_boardPresent] at hmem
  rw [(faultIn_steady h).unlocked, tget_putUnknown_sections, setFlagAll_sections, tripDistrict_sections]
  simp only [hmem]

/-- Settles O23: the district trips with its booster off, every station is told, and its sections are held; what the
changes of those sections run reaches no district, booster or occupancy. -/
theorem aFaultInNormalTripsTheDistrict : Obligations.AFaultInNormalTripsTheDistrict := by
  unfold Obligations.AFaultInNormalTripsTheDistrict
  intro d s hheld hsound hnormal hfilter
  have hdistrict : tget (faultIn d s).districts d = (tget s.districts d).trip := by
    rw [faultIn_districts hnormal, tget_tupd_same]
  refine ⟨faultIn d s, exec_faultFilterExpiry hheld hfilter, hdistrict, ?_, fun e he => ?_,
    fun g hg => faultIn_enables hnormal hg, faultIn_allTold hnormal, fun n g hg hd => ⟨?_, fun hpresent => ?_⟩,
    fun n g hg hd => ?_⟩
  · obtain ⟨_, _, _, hcount⟩ := hsound d
    rw [hnormal] at hcount
    rw [hdistrict]
    exact hcount
  · rw [faultIn_districts hnormal, tget_tupd_ne _ (Ne.symm he)]
  · simp [cfgHeld, hd, hdistrict, DistrictRec.trip]
  · have hn := faultIn_sections hnormal hg
    rw [if_pos ⟨hd, hpresent⟩] at hn
    exact ⟨(congrArg SectionRec.occ hn :), (congrArg SectionRec.clearTimer hn :)⟩
  · have hn := faultIn_sections hnormal hg
    rw [if_neg fun hboth => hd hboth.1] at hn
    exact ⟨(congrArg SectionRec.occ hn :), (congrArg SectionRec.clearTimer hn :)⟩

end Sys2Proof.Machine
end

section
/-! SUPPORT. What the end of a throw runs leaves of the other points (R29, R31 to R35): the throws in motion run on, a
point at rest with no order stays as it is but for its lock, and no drive is set but those of the points with an order.
`RunsOn a s` is kept by every operation that the end of a throw runs. -/

namespace Sys2Proof.Machine

/-- An order for a point stands in the throw queue. -/
def Ordered (s : State) (p : PointId) : Prop := ∃ o ∈ s.throwQueue, o.point = p

/-- From `a` to `s` no order joins the throw queue, no point is configured afresh, no free one is locked, a point that had
no order keeps its state, target and throw timer (its owner too, unless it was MOVING), and a channel of no ordered point
keeps its drive. -/
structure RunsOn (a s : State) : Prop where
  orders : s.throwQueue ⊆ a.throwQueue
  cfg : ∀ q, (tget s.points q).cfg = (tget a.points q).cfg
  free : ∀ q, (tget a.points q).lock = .free → (tget s.points q).lock = .free
  motion : ∀ q, ¬ Ordered a q → (tget s.points q).state = (tget a.points q).state
    ∧ (tget s.points q).target = (tget a.points q).target ∧ (tget s.points q).throwTimer = (tget a.points q).throwTimer
  owner : ∀ q, ¬ Ordered a q → (tget a.points q).state ≠ .moving →
    (tget s.points q).throwOwner = (tget a.points q).throwOwner
      ∧ (tget s.points q).releaseAtEnd = (tget a.points q).releaseAtEnd
  drives : ∀ b c, (∀ q g, Ordered a q → (tget a.points q).cfg = some g → g.board = b → g.channel ≠ c) →
    tget (tget s.boards b).image.drives c = tget (tget a.boards b).image.drives c

theorem RunsOn.refl (a : State) : RunsOn a a :=
  ⟨List.Subset.refl _, fun _ => rfl, fun _ h => h, fun _ _ => ⟨rfl, rfl, rfl⟩, fun _ _ _ => ⟨rfl, rfl⟩, fun _ _ _ => rfl⟩

/-- A change of nothing that `RunsOn` speaks of. -/
theorem RunsOn.frame {a s t : State} (h : RunsOn a s) (hpoints : t.points = s.points) (hqueue : t.throwQueue = s.throwQueue)
    (hdrives : ∀ b, (tget t.boards b).image.drives = (tget s.boards b).image.drives) : RunsOn a t := by
  refine ⟨hqueue ▸ h.orders, ?_, ?_, ?_, ?_, fun b c hc => ?_⟩
  · rw [hpoints]; exact h.cfg
  · rw [hpoints]; exact h.free
  · rw [hpoints]; exact h.motion
  · rw [hpoints]; exact h.owner
  · rw [hdrives]; exact h.drives b c hc

/-- A change of one point's entry that keeps what `RunsOn` speaks of. -/
theorem points_runsOn {a s : State} (p : PointId) (f : PointRec → PointRec) (hcfg : ∀ e, (f e).cfg = e.cfg)
    (hfree : ∀ e, e.lock = .free → (f e).lock = .free)
    (hmotion : ¬ Ordered a p → ∀ e, (f e).state = e.state ∧ (f e).target = e.target ∧ (f e).throwTimer = e.throwTimer)
    (howner : ¬ Ordered a p → (tget s.points p).state ≠ .moving →
      ∀ e, (f e).throwOwner = e.throwOwner ∧ (f e).releaseAtEnd = e.releaseAtEnd)
    (h : RunsOn a s) : RunsOn a { s with points := tupd s.points p f } := by
  have hother : ∀ q, p ≠ q → tget (tupd s.points p f) q = tget s.points q := fun q e => tget_tupd_ne _ e f
  refine ⟨h.orders, fun q => ?cfg, fun q hq => ?free, fun q hq => ?motion, fun q hq hrest => ?owner, h.drives⟩
  case cfg =>
    rcases eq_or_ne p q with rfl | hne
    · simpa [hcfg] using h.cfg p
    · simpa [hother q hne] using h.cfg q
  case free =>
    rcases eq_or_ne p q with rfl | hne
    · simpa using hfree _ (h.free p hq)
    · simpa [hother q hne] using h.free q hq
  case motion =>
    rcases eq_or_ne p q with rfl | hne
    · obtain ⟨hstate, htarget, htimer⟩ := hmotion hq (tget s.points p)
      simpa [hstate, htarget, htimer] using h.motion p hq
    · simpa [hother q hne] using h.motion q hq
  case owner =>
    rcases eq_or_ne p q with rfl | hne
    · obtain ⟨hown, hend⟩ := howner hq (by rw [(h.motion p hq).1]; exact hrest) (tget s.points p)
      simpa [hown, hend] using h.owner p hq hrest
    · simpa [hother q hne] using h.owner q hq hrest

theorem ite_runsOn {a s t : State} {c : Prop} [Decidable c] (h : RunsOn a s) (g : RunsOn a t) :
    RunsOn a (if c then s else t) := by
  split
  · exact h
  · exact g

theorem forEach_runsOn {ι : Type} {a s : State} (l : List ι) (f : ι → State → State)
    (hf : ∀ i s, RunsOn a s → RunsOn a (f i s)) (h : RunsOn a s) : RunsOn a (forEach l f s) := forEach_induct hf l h

/-! ### Flags, images and locks -/

theorem setFlag_runsOn {a s : State} (f : EventFlag) (st : StationId) (h : RunsOn a s) : RunsOn a (setFlag f st s) := by
  rw [setFlag_eq]
  exact h.frame rfl rfl fun _ => rfl

theorem setFlags_runsOn {a s : State} (f : EventFlag) (l : List StationId) (h : RunsOn a s) :
    RunsOn a (setFlags f l s) := forEach_runsOn _ _ (fun st _ g => setFlag_runsOn f st g) h

theorem setOwnerFlag_runsOn {a s : State} (f : EventFlag) (o : Owner) (h : RunsOn a s) :
    RunsOn a (setOwnerFlag f o s) := by
  rw [setOwnerFlag_eq]
  exact h.frame rfl rfl fun _ => rfl

/-- A change of an output image that leaves its point drives alone. -/
theorem setImage_runsOn {a s : State} (b : BoardIdx) (f : OutputImage → OutputImage) (hf : ∀ i, (f i).drives = i.drives)
    (h : RunsOn a s) : RunsOn a (setImage b f s) := by
  refine h.frame rfl rfl fun d => ?_
  simp only [setImage_boards, tget_tupd]
  split
  · exact hf _
  · rfl

theorem setTtOutputs_runsOn {a s : State} (f : OutputImage → OutputImage) (hf : ∀ i, (f i).drives = i.drives)
    (h : RunsOn a s) : RunsOn a (setTtOutputs f s) := by
  unfold setTtOutputs
  split
  · exact h
  · exact setImage_runsOn _ f hf h

theorem updRes_runsOn {a s : State} (r : ResId) (f : Reservation → Reservation) (h : RunsOn a s) :
    RunsOn a (updRes r f s) := h.frame rfl rfl fun _ => rfl

theorem setRes_runsOn {a s : State} (r : ResId) (x : Option Reservation) (h : RunsOn a s) : RunsOn a (setRes r x s) :=
  h.frame rfl rfl fun _ => rfl

theorem setTt_runsOn {a s : State} (f : Turntable → Turntable) (h : RunsOn a s) : RunsOn a (setTt f s) :=
  h.frame rfl rfl fun _ => rfl

theorem releaseSection_runsOn {a s : State} (n : SectionId) (r : ResId) (h : RunsOn a s) :
    RunsOn a (releaseSection n r s) := ite_runsOn (h.frame rfl rfl fun _ => rfl) h

theorem releasePoint_runsOn {a s : State} (p : PointId) (r : ResId) (h : RunsOn a s) : RunsOn a (releasePoint p r s) :=
  ite_runsOn (points_runsOn p _ (fun _ => rfl) (fun _ _ => rfl) (fun _ _ => ⟨rfl, rfl, rfl⟩)
    (fun _ _ _ => ⟨rfl, rfl⟩) h) h

/-! ### Signals, displays and buttons (R21, R22, R134 to R138, R144) -/

theorem recordAspect_runsOn {a s : State} (sg : SignalId) (x : Aspect) (h : RunsOn a s) :
    RunsOn a (recordAspect sg x s) := by
  unfold recordAspect
  dsimp only
  split
  · exact h.frame rfl rfl fun _ => rfl
  · exact setImage_runsOn _ _ (fun _ => rfl) (h.frame rfl rfl fun _ => rfl)

theorem cascade_runsOn {a s : State} (n : Nat) (l : List SignalId) (h : RunsOn a s) : RunsOn a (cascade n l s) := by
  induction n generalizing l s with
  | zero => exact h
  | succ n ih =>
    cases l with
    | nil => exact h
    | cons sg rest => exact ite_runsOn (ih rest h) (ih _ (recordAspect_runsOn _ _ h))

theorem deriveSignal_runsOn {a s : State} (sg : SignalId) (h : RunsOn a s) : RunsOn a (deriveSignal sg s) :=
  cascade_runsOn _ _ h

theorem renderAnn_runsOn {a s : State} (b : DepBoardId) (n : AnnId) (h : RunsOn a s) : RunsOn a (renderAnn b n s) := by
  unfold renderAnn
  split
  · exact ite_runsOn h (h.frame rfl rfl fun _ => rfl)
  · exact h

theorem putAnn_runsOn {a s : State} (n : AnnId) (v : Announcement) (h : RunsOn a s) : RunsOn a (putAnn n v s) :=
  setFlags_runsOn _ _ (renderAnn_runsOn _ _ (h.frame rfl rfl fun _ => rfl))

theorem testAnn_runsOn {a s : State} (t : Option TrainId) (n : AnnId) (h : RunsOn a s) : RunsOn a (testAnn t n s) := by
  unfold testAnn
  split
  · exact h
  · exact ite_runsOn h (putAnn_runsOn _ _ h)

theorem reservationReport_runsOn {a s : State} (sg : SignalId) (t : Option TrainId) (h : RunsOn a s) :
    RunsOn a (reservationReport sg t s) := forEach_runsOn _ _ (fun n _ g => testAnn_runsOn t n g) h

theorem setButtonState_runsOn {a s : State} (b : ButtonId) (x : ButtonState) (h : RunsOn a s) :
    RunsOn a (setButtonState b x s) := by
  unfold setButtonState
  dsimp only
  split
  · exact h.frame rfl rfl fun _ => rfl
  · exact setImage_runsOn _ _ (fun _ => rfl) (h.frame rfl rfl fun _ => rfl)

theorem busyEnds_runsOn {a s : State} (w : BusyWith) (h : RunsOn a s) : RunsOn a (busyEnds w s) :=
  forEach_runsOn _ _ (fun b _ g => setButtonState_runsOn b _ (g.frame rfl rfl fun _ => rfl)) h

/-! ### The interlocking's changes (R57, R65 to R68) -/

theorem changeState_runsOn {a s : State} (r : ResId) (x : ResState) (h : RunsOn a s) : RunsOn a (changeState r x s) := by
  unfold changeState
  split
  · exact h
  · have h1 : ∀ v, RunsOn a (setRes r v s) := fun v => setRes_runsOn r v h
    exact ite_runsOn h (setOwnerFlag_runsOn _ _ (reservationReport_runsOn _ _
      (ite_runsOn (deriveSignal_runsOn _ (h1 _)) (h1 _))))

theorem setFault_runsOn {a s : State} (r : ResId) (n : FaultNote) (h : RunsOn a s) : RunsOn a (setFault r n s) := by
  unfold setFault
  split
  · exact h
  · exact setFlag_runsOn _ _ (setOwnerFlag_runsOn _ _ (updRes_runsOn _ _ h))

theorem testOpen_runsOn {a s : State} (r : ResId) (h : RunsOn a s) : RunsOn a (testOpen r s) := by
  unfold testOpen
  split
  · exact h
  · split
    · exact ite_runsOn (changeState_runsOn _ _ h) h
    · exact ite_runsOn h (changeState_runsOn _ _ h)
    · exact h

theorem recheck_runsOn {a s : State} (r : ResId) (h : RunsOn a s) : RunsOn a (recheck r s) := by
  have lost : ∀ n f, RunsOn a (setFault r n (changeState r .setting (updRes r f s))) := fun _ _ =>
    setFault_runsOn _ _ (changeState_runsOn _ _ (updRes_runsOn _ _ h))
  unfold recheck
  dsimp only
  split
  · exact h
  · split
    · exact ite_runsOn (testOpen_runsOn _ (changeState_runsOn _ _ (updRes_runsOn _ _ h))) (updRes_runsOn _ _ h)
    · exact ite_runsOn (lost _ _) h
    · exact ite_runsOn (lost _ _) h
    · exact h

theorem pointChanged_runsOn {a s : State} (l : PointLock) (h : RunsOn a s) : RunsOn a (pointChanged l s) := by
  unfold pointChanged
  split
  · exact recheck_runsOn _ h
  · exact h

theorem turntableChanged_runsOn {a s : State} (h : RunsOn a s) : RunsOn a (turntableChanged s) := by
  unfold turntableChanged
  split
  · exact h
  · exact testOpen_runsOn _ (recheck_runsOn _ h)

/-! ### The throw queue (R30 to R34) -/

/-- Orders leave the queue. -/
theorem queue_runsOn {a s : State} {l : List ThrowOrder} (hl : l ⊆ s.throwQueue) (h : RunsOn a s) :
    RunsOn a { s with throwQueue := l } :=
  ⟨List.Subset.trans hl h.orders, h.cfg, h.free, h.motion, h.owner, h.drives⟩

/-- The drive of a point with an order is set. -/
theorem drivePoint_runsOn {a s : State} {p : PointId} (hp : Ordered a p) (d : PointDrive) (h : RunsOn a s) :
    RunsOn a (drivePoint p d s) := by
  unfold drivePoint
  split
  · exact h
  · next g hg =>
    refine ⟨h.orders, h.cfg, h.free, h.motion, h.owner, fun b c hc => ?_⟩
    have hother := hc p g hp (by rw [← h.cfg]; exact hg)
    rw [← h.drives b c hc]
    simp only [setDrive, setImage_boards, tget_tupd]
    split
    · next e => rw [tget_tput_ne _ (hother e)]
    · rfl

/-- A throw starts at a point that had an order, and at no other (R33). -/
theorem startThrow_runsOn {a s : State} {o : ThrowOrder} {rest : List ThrowOrder} (hq : s.throwQueue = o :: rest)
    (h : RunsOn a s) : RunsOn a (startThrow o rest s) := by
  have hordered : Ordered a o.point := ⟨o, h.orders (by simp [hq]), rfl⟩
  have hmoving := points_runsOn o.point (fun e => { e with
    state := .moving, target := some o.pos, throwOwner := o.owner, releaseAtEnd := false
    throwTimer := some s.timing.throwTime }) (fun _ => rfl) (fun _ hfree => hfree) (fun hn => absurd hordered hn)
    (fun hn => absurd hordered hn) (queue_runsOn (l := rest) (by simp [hq]) h)
  exact pointChanged_runsOn _ (drivePoint_runsOn hordered _ (hmoving.frame rfl rfl fun _ => rfl))

theorem considerOrders_runsOn {a s : State} {l : List ThrowOrder} (hl : s.throwQueue = l) (h : RunsOn a s) :
    RunsOn a (considerOrders l s) := by
  induction l generalizing s with
  | nil => exact h
  | cons o rest ih =>
    refine ite_runsOn (ite_runsOn (ih ?_ ?_) (startThrow_runsOn hl h)) h
    · simp [pointEvent]
    · exact setFlags_runsOn _ _ (queue_runsOn (by simp [hl]) h)

theorem considerStart_runsOn {a s : State} (h : RunsOn a s) : RunsOn a (considerStart s) := considerOrders_runsOn rfl h

theorem removeOrders_runsOn {a s : State} (r : ResId) (l : Option (List PointId)) (h : RunsOn a s) :
    RunsOn a (removeOrders r l s) := by
  have hleft := queue_runsOn (List.filter_sublist (p := fun o => !orderNamed r l o)).subset h
  exact ite_runsOn (considerStart_runsOn hleft) hleft

/-- The throws of a reservation are disowned: they are in motion, and run on (R31). -/
theorem disown_runsOn {a s : State} (r : ResId) (h : RunsOn a s) : RunsOn a (disown r s) := by
  have hmoving : ∀ p ∈ throwsInFlight s r, ¬ Ordered a p → (tget a.points p).state = .moving := by
    intro p hp hn
    have hstate : (tget s.points p).state = .moving := by
      simp only [throwsInFlight, mem_idsWhere, Bool.and_eq_true, beq_iff_eq] at hp
      exact hp.1
    rw [← (h.motion p hn).1, hstate]
  refine forEach_induct_mem _ (fun p hp t ht => ?_) h
  refine points_runsOn p _ (fun _ => rfl) (fun e he => ?_) (fun _ _ => ⟨rfl, rfl, rfl⟩) (fun hn hrest => ?_) ht
  · simp [he]
  · exact absurd ((ht.motion p hn).1.trans (hmoving p hp hn)) hrest

/-! ### The turntable's queue (R110, R113 to R116, R124) -/

theorem reportMove_runsOn {a s : State} (m : Move) (h : RunsOn a s) : RunsOn a (reportMove m s) := by
  unfold reportMove
  split
  · exact setFlags_runsOn _ _ h
  · exact busyEnds_runsOn _ h
  · exact h
  · exact h

theorem endAtTarget_runsOn {a s : State} (m : Move) (h : RunsOn a s) : RunsOn a (endAtTarget m s) :=
  turntableChanged_runsOn (reportMove_runsOn m (setTt_runsOn _ h))

theorem enterUnbolting_runsOn {a s : State} (h : RunsOn a s) : RunsOn a (enterUnbolting s) :=
  turntableChanged_runsOn (setTtOutputs_runsOn _ (fun _ => rfl) (setTt_runsOn _ h))

theorem considerMoves_runsOn {a s : State} (n : Nat) (h : RunsOn a s) : RunsOn a (considerMoves n s) := by
  induction n generalizing s with
  | zero => exact h
  | succ n ih =>
    unfold considerMoves
    split
    · exact h
    · refine ite_runsOn ?_ h
      split
      · exact ih (reportMove_runsOn _ (setTt_runsOn _ h))
      · exact ite_runsOn (ih (endAtTarget_runsOn _ (setTt_runsOn _ (setTt_runsOn _ h))))
          (enterUnbolting_runsOn (setTt_runsOn _ (setTt_runsOn _ h)))

theorem considerMove_runsOn {a s : State} (h : RunsOn a s) : RunsOn a (considerMove s) := considerMoves_runsOn _ h

theorem releaseDeck_runsOn {a s : State} (r : ResId) (h : RunsOn a s) : RunsOn a (releaseDeck r s) :=
  ite_runsOn (considerMove_runsOn (setTt_runsOn _ h)) (setTt_runsOn _ h)

theorem removeMove_runsOn {a s : State} (r : ResId) (h : RunsOn a s) : RunsOn a (removeMove r s) :=
  ite_runsOn (considerMove_runsOn (setTt_runsOn _ h)) h

/-! ### Retirement and the end of a reservation's throw (R68, R79, R84, R85, R87) -/

theorem leaveForRetirement_runsOn {a s : State} (r : ResId) (v : Reservation) (d : RouteDef) (h : RunsOn a s) :
    RunsOn a (leaveForRetirement r v d s) :=
  ite_runsOn (deriveSignal_runsOn _ (setRes_runsOn _ _ h)) (setRes_runsOn _ _ h)

theorem releaseAllSections_runsOn {a s : State} (r : ResId) (h : RunsOn a s) : RunsOn a (releaseAllSections r s) :=
  forEach_runsOn _ _ (fun n _ g => releaseSection_runsOn n r g) h

theorem releaseRestingPoints_runsOn {a s : State} (r : ResId) (h : RunsOn a s) : RunsOn a (releaseRestingPoints r s) :=
  forEach_runsOn _ _ (fun p _ g => releasePoint_runsOn p r g) h

theorem freeEntry_runsOn {a s : State} (r : ResId) (sg : SignalId) (h : RunsOn a s) : RunsOn a (freeEntry r sg s) :=
  h.frame rfl rfl fun _ => rfl

theorem retire_runsOn {a s : State} (r : ResId) (h : RunsOn a s) : RunsOn a (retire r s) := by
  unfold retire
  split
  · exact h
  · next v d _ =>
    have withdrawn := removeMove_runsOn r (removeOrders_runsOn r none (leaveForRetirement_runsOn r v d h))
    have unlocked := disown_runsOn r (releaseRestingPoints_runsOn r (releaseAllSections_runsOn r withdrawn))
    have freed := freeEntry_runsOn r d.entrance (releaseDeck_runsOn r unlocked)
    have told := setOwnerFlag_runsOn .route v.owner (reservationReport_runsOn d.entrance none freed)
    dsimp only
    split
    · exact busyEnds_runsOn _ told
    · exact told

theorem ownedThrowEnded_runsOn {a s : State} (r : ResId) (p : PointId) (o : ThrowOutcome) (h : RunsOn a s) :
    RunsOn a (ownedThrowEnded r p o s) := by
  have released := releasePoint_runsOn p r h
  unfold ownedThrowEnded
  split
  · exact h
  · split
    · exact ite_runsOn (setFault_runsOn _ _ (recheck_runsOn _ h)) (recheck_runsOn _ h)
    · exact ite_runsOn released (retire_runsOn r released)
    · exact ite_runsOn (ite_runsOn (retire_runsOn r released) released) h
    · exact h

theorem ownedThrowEnded_steady {a s : State} (r : ResId) (p : PointId) (o : ThrowOutcome) (h : Steady a s) :
    Steady a (ownedThrowEnded r p o s) := by
  have released := releasePoint_steady p r h
  unfold ownedThrowEnded
  split
  · exact h
  · split
    · exact ite_steady (setFault_steady _ _ (recheck_steady _ h)) (recheck_steady _ h)
    · exact ite_steady released (retire_steady r released)
    · exact ite_steady (ite_steady (retire_steady r released) released) h
    · exact h

end Sys2Proof.Machine
end

section
/-! A throw that times out (R38). -/

namespace Sys2Proof.Machine

/-! ### The POINT event and the start that is considered (R28, R32) -/

theorem pointEvent_pointTold (p : PointId) (s : State) : PointTold s (pointEvent p s) p := by
  refine ⟨hasFlag_setFlags .point (by simp) (by simp [isEnrolled]), fun x henrolled hterritory => ?_⟩
  exact hasFlag_setFlags .point (by simp [stationsWith, hterritory]) henrolled

/-- A start leaves the recharge timer running. -/
theorem startThrow_rechargeTimer (o : ThrowOrder) (rest : List ThrowOrder) (s : State) :
    (startThrow o rest s).rechargeTimer = some s.timing.rechargeGap := by
  have htold : Told _ (startThrow o rest s) := pointChanged_told _ (drivePoint_told _ _ (Told.refl _))
  rw [htold]

theorem considerOrders_startConsidered {l : List ThrowOrder} {s : State} (hl : s.throwQueue = l) :
    StartConsidered (considerOrders l s) := by
  induction l generalizing s with
  | nil => exact .inl hl
  | cons o rest ih =>
    unfold considerOrders
    split
    · split
      · exact ih (by simp [pointEvent])
      · exact .inr (.inr (by simp [startThrow_rechargeTimer]))
    · next hmay =>
      simp only [mayStart, Bool.and_eq_true, decide_eq_true_eq, Bool.not_eq_true', not_and, Bool.not_eq_false] at hmay
      rcases Nat.lt_or_ge (throwsInMotion s) 2 with hlt | hge
      · exact .inr (.inr (Option.isSome_iff_ne_none.mp (hmay hlt)))
      · exact .inr (.inl hge)

theorem considerStart_startConsidered (s : State) : StartConsidered (considerStart s) := considerOrders_startConsidered rfl

/-! ### The failed point -/

theorem drivePoint_eq (p : PointId) (d : PointDrive) (s : State) :
    drivePoint p d s = { s with boards := (drivePoint p d s).boards } := by
  unfold drivePoint
  split <;> rfl

theorem drivePoint_drives {p : PointId} {s : State} {g : PointCfg} (h : (tget s.points p).cfg = some g) (d : PointDrive) :
    tget (tget (drivePoint p d s).boards g.board).image.drives g.channel = d := by
  simp [drivePoint, h, setDrive]

/-- The point is FAILED with its drive IDLE and the POINT event set, before anyone takes the end of its throw (R38). -/
def failThrow (p : PointId) (s : State) : State :=
  pointEvent p (drivePoint p .idle { s with points := tupd s.points p (PointRec.atEnd .failed) })

theorem failThrow_eq (p : PointId) (s : State) : failThrow p s = { s with
    points := tupd s.points p (PointRec.atEnd .failed), boards := (failThrow p s).boards
    stations := (failThrow p s).stations } := by
  unfold failThrow pointEvent
  rw [setFlags_eq, drivePoint_eq]

theorem failThrow_points (p : PointId) (s : State) : (failThrow p s).points = tupd s.points p (PointRec.atEnd .failed) := by
  rw [failThrow_eq]

theorem failThrow_throwQueue (p : PointId) (s : State) : (failThrow p s).throwQueue = s.throwQueue := by
  rw [failThrow_eq]

theorem failThrow_cfg (p q : PointId) (s : State) : (tget (failThrow p s).points q).cfg = (tget s.points q).cfg := by
  rw [failThrow_points, tget_tupd]
  split <;> rfl

theorem failThrow_drives {p : PointId} {s : State} {g : PointCfg} (h : (tget s.points p).cfg = some g) :
    tget (tget (failThrow p s).boards g.board).image.drives g.channel = .idle := by
  unfold failThrow pointEvent
  rw [setFlags_boards]
  exact drivePoint_drives (by simpa [PointRec.atEnd] using h) .idle

theorem failThrow_pointTold (p : PointId) (s : State) : PointTold s (failThrow p s) p := by
  have htold := pointEvent_pointTold p (drivePoint p .idle { s with points := tupd s.points p (PointRec.atEnd .failed) })
  rw [drivePoint_eq] at htold
  unfold failThrow
  rw [drivePoint_eq]
  exact htold

/-! ### The end of the throw, as it is taken -/

/-- What the interlocking's taking of a point's change and of a throw's end keep, the end of a failed throw keeps. -/
theorem endThrow_failed_induct {P : State → Prop} {p : PointId} {s : State}
    (hchange : ∀ l t, P t → P (pointChanged l t)) (hend : ∀ r t, P t → P (ownedThrowEnded r p .failed t))
    (h : P (failThrow p s)) : P (endThrow p .failed s) := by
  unfold endThrow
  dsimp only
  split
  · exact hchange _ _ h
  · exact hend _ _ (hchange _ _ h)

theorem throwEnd_failed_runsOn (p : PointId) (s : State) : RunsOn (failThrow p s) (throwEnd p .failed s) :=
  considerStart_runsOn (endThrow_failed_induct (fun l _ h => pointChanged_runsOn l h)
    (fun r _ h => ownedThrowEnded_runsOn r p _ h) (RunsOn.refl _))

theorem throwEnd_failed_steady (p : PointId) (s : State) : Steady (failThrow p s) (throwEnd p .failed s) :=
  considerOrders_steady _ (endThrow_failed_induct (fun l _ h => pointChanged_steady l h)
    (fun r _ h => ownedThrowEnded_steady r p _ h) (Steady.refl _))

theorem throwEnd_failed_pointTold (p : PointId) (s : State) : PointTold s (throwEnd p .failed s) p := by
  obtain ⟨hsupervisor, hstations⟩ := failThrow_pointTold p s
  have hkept := (throwEnd_failed_steady p s).flags
  exact ⟨hkept _ _ hsupervisor, fun x henrolled hterritory => hkept _ _ (hstations x henrolled hterritory)⟩

/-- A MOVING point has no order in the queue (2.3), nor has it one when it fails. -/
theorem ThrowsSound.not_ordered {s : State} (h : ThrowsSound s) {q : PointId} (hq : (tget s.points q).state = .moving)
    (p : PointId) : ¬ Ordered (failThrow p s) q := by
  rintro ⟨o, ho, rfl⟩
  obtain ⟨_, _, hresting, _⟩ := h
  rw [failThrow_throwQueue] at ho
  exact hresting o ho hq

/-- The failed point stands as its throw left it: nothing that takes the end of the throw starts it again. -/
theorem throwEnd_failed_point {p : PointId} {s : State} (hsound : ThrowsSound s)
    (hmoving : (tget s.points p).state = .moving) :
    let e := tget (throwEnd p .failed s).points p
    e.state = .failed ∧ e.target = none ∧ e.throwOwner = none ∧ e.throwTimer = none ∧ e.releaseAtEnd = false
      ∧ ((tget s.points p).lock = .disowned → e.lock = .free) := by
  have hruns := throwEnd_failed_runsOn p s
  have hn := hsound.not_ordered hmoving p
  have hfailed : tget (failThrow p s).points p = (tget s.points p).atEnd .failed := by rw [failThrow_points, tget_tupd_same]
  obtain ⟨hstate, htarget, htimer⟩ := hruns.motion p hn
  obtain ⟨howner, hend⟩ := hruns.owner p hn (by rw [hfailed]; simp [PointRec.atEnd, ThrowOutcome.leaves])
  have hlock := hruns.free p
  rw [hfailed] at hstate htarget htimer howner hend hlock
  exact ⟨hstate, htarget, howner, htimer, hend, fun hdisowned => hlock (by simp [PointRec.atEnd, hdisowned])⟩

/-- The drive of the failed point is IDLE: no ordered point has its channel (R175). -/
theorem throwEnd_failed_drive {p : PointId} {s : State} {g : PointCfg} (hsound : ThrowsSound s)
    (hchannels : ChannelsDistinct s) (hmoving : (tget s.points p).state = .moving) (hg : (tget s.points p).cfg = some g) :
    tget (tget (throwEnd p .failed s).boards g.board).image.drives g.channel = .idle := by
  rw [(throwEnd_failed_runsOn p s).drives, failThrow_drives hg]
  intro q c hordered hc hboard hchannel
  rw [failThrow_cfg] at hc
  exact hsound.not_ordered hmoving p (hchannels.points q p c g hc hg hboard hchannel ▸ hordered)

/-- Another throw in motion runs on. -/
theorem throwEnd_failed_others {p q : PointId} {s : State} (hsound : ThrowsSound s) (hq : q ≠ p)
    (hmoving : (tget s.points q).state = .moving) :
    (tget (throwEnd p .failed s).points q).state = .moving
      ∧ (tget (throwEnd p .failed s).points q).target = (tget s.points q).target
      ∧ (tget (throwEnd p .failed s).points q).throwTimer = (tget s.points q).throwTimer := by
  have hruns := (throwEnd_failed_runsOn p s).motion q (hsound.not_ordered hmoving p)
  rw [failThrow_points, tget_tupd_ne _ (Ne.symm hq), hmoving] at hruns
  exact hruns

theorem exec_throwTimerExpiry {s : State} (h : s.resetHeld = false) (p : PointId) :
    exec (.throwTimerExpiry p) s = .next (throwExpires p s) := congrArg _ (unlessHeld_eq h _)

/-- Settles O22: the point fails with its drive IDLE and its stations told; it has no order in the queue, so that neither
the reservation's taking of the end nor the start that is considered reaches it or another throw in motion. -/
theorem aThrowThatTimesOutFails : Obligations.AThrowThatTimesOutFails := by
  unfold Obligations.AThrowThatTimesOutFails
  intro p s hheld hsound hchannels
  rw [exec_throwTimerExpiry hheld]
  refine ⟨fun hrest => by rw [throwExpires, if_neg hrest], fun hmoving => ?_⟩
  obtain ⟨hstate, htarget, howner, htimer, hend, hlock⟩ := throwEnd_failed_point hsound hmoving
  exact ⟨throwEnd p .failed s, by rw [throwExpires, if_pos hmoving], hstate, htarget, howner, htimer, hend, hlock,
    fun g hg => throwEnd_failed_drive hsound hchannels hmoving hg, throwEnd_failed_pointTold p s,
    considerStart_startConsidered _, fun q hq hq' => throwEnd_failed_others hsound hq hq'⟩

end Sys2Proof.Machine
end

section
/-! SUPPORT. The flags of a station (10.3): the reported set has the flags that are set, and clearing takes away exactly
them. -/

namespace Sys2Proof.Machine

theorem EventFlag.mem_all (f : EventFlag) : f ∈ EventFlag.all := by cases f <;> decide

theorem mem_flagsOf {s : State} {st : StationId} {f : EventFlag} : f ∈ flagsOf s st ↔ hasFlag s st f = true := by
  simp [flagsOf, EventFlag.mem_all]

theorem anyFlag_eq_false {s : State} {st : StationId} : anyFlag s st = false ↔ ∀ f, hasFlag s st f = false := by
  simp [anyFlag, EventFlag.mem_all]

theorem hasFlag_clearFlags_same (st : StationId) (s : State) (f : EventFlag) : hasFlag (clearFlags st s) st f = false := by
  simp [hasFlag, clearFlags]

theorem clearFlags_stations_ne {st x : StationId} (h : x ≠ st) (s : State) :
    tget (clearFlags st s).stations x = tget s.stations x := tget_tupd_ne _ h.symm _

end Sys2Proof.Machine
end

section
/-! READ EVENTS (R168). -/

namespace Sys2Proof.Machine

theorem exec_readEvents {st : StationId} {s : State} (h : Asks st s) (tag : Byte) :
    exec (.readEvents st tag) s = .next (answered st tag 0x61 .done (.events (flagsOf (goodReply st s) st))
      (clearFlags st (goodReply st s))) :=
  congrArg _ (taken_of_asks h tag codeReadEvents (handleReadEvents st))

/-- Settles O6: the request is answered with the set of the station's flags as the good reply leaves them, and with that
set cleared. -/
theorem readEventsReportsAndClearsTheFlags : Obligations.ReadEventsReportsAndClearsTheFlags := by
  unfold Obligations.ReadEventsReportsAndClearsTheFlags
  intro st tag s h
  have hcleared := hasFlag_clearFlags_same st (goodReply st s)
  exact ⟨flagsOf (goodReply st s) st, clearFlags st (goodReply st s), exec_readEvents h tag, fun _ => mem_flagsOf, rfl,
    hcleared, anyFlag_eq_false.mpr hcleared, fun _ hx => clearFlags_stations_ne hx _⟩

end Sys2Proof.Machine
end

section
/-! READ STATUS (R169), which is taken in every load state (R165). -/

namespace Sys2Proof.Machine

/-! ### A request that is taken in every load state (R161, R162, R165) -/

theorem taken_of_polled {st : StationId} {s : State} (h : Polled st s) (tag code : Byte) (f : State → Handled) :
    unlessHeld (takeRequest st tag code (always f)) s
      = answered st tag code (f (goodReply st s)).1.result (f (goodReply st s)).1.detail (f (goodReply st s)).2 := by
  obtain ⟨hheld, hpolled⟩ := h
  rw [unlessHeld_eq hheld]
  simp [takeRequest, replyFrom, hpolled, always, answered]

theorem exec_readStatus {st : StationId} {s : State} (h : Polled st s) (tag : Byte) :
    exec (.readStatus st tag) s
      = .next (answered st tag 0x62 .done (.status (statusView (goodReply st s))) (goodReply st s)) :=
  congrArg _ (taken_of_polled h tag codeReadStatus handleReadStatus)

/-! ### What the status shows after a good reply -/

/-- A change of a station's record that keeps its enrolled mark changes no enrolment. -/
theorem isEnrolled_setStation (st x : StationId) (f : StationRec → StationRec) (s : State)
    (hf : ∀ e, (f e).enrolled = e.enrolled) : isEnrolled (setStation st f s) x = isEnrolled s x := by
  have henrolled : (tget (setStation st f s).stations x).enrolled = (tget s.stations x).enrolled := by
    simp only [setStation, tget_tupd]
    split
    · exact hf _
    · rfl
  simp only [isEnrolled, henrolled]
  rfl

/-- A good reply of a station changes no enrolment (R161, R163). -/
theorem isEnrolled_goodReply (st x : StationId) (s : State) : isEnrolled (goodReply st s) x = isEnrolled s x := by
  have hback := isEnrolled_setStation st x
    (fun e => { e with present := true, missCount := 0, repollTimer := none, repollDue := false }) s fun _ => rfl
  unfold goodReply
  dsimp only
  split
  · exact hback
  · rw [stationEvent, isEnrolled_setFlag, hback]

/-- Of what the status shows, the station table gives the list of the stations alone. -/
theorem statusView_stations (s : State) (l : Vector StationRec 15) : statusView { s with stations := l } =
    { statusView s with stations := ((List.finRange 15).filter (isEnrolled { s with stations := l })).map fun x =>
        (x, (tget l x).present) } := by
  simp only [statusView, slotCount, liveReservations, demoReservations, throwsInMotion]

/-- Of what the status shows, a good reply changes the link states of the stations alone. -/
theorem statusView_goodReply (st : StationId) (s : State) : statusView (goodReply st s) = { statusView s with
    stations := ((List.finRange 15).filter (isEnrolled s)).map fun x =>
      (x, (tget (goodReply st s).stations x).present) } := by
  have henrolled : isEnrolled (goodReply st s) = isEnrolled s := funext fun x => isEnrolled_goodReply st x s
  have hview := statusView_stations s (goodReply st s).stations
  rw [← goodReply_eq, henrolled] at hview
  exact hview

/-- With no image there is no version to report (R169), and the record holds none. -/
theorem LoadSound.reportedVersion {s : State} (h : LoadSound s) :
    (if s.loadState = .noImage then none else s.imageVersion) = s.imageVersion := by
  split
  · next hnone => exact (h.version (.inr hnone)).symm
  · rfl

/-- Settles O7: the request is answered with the status as the good reply leaves it, which differs from the status before
in the link states of the stations alone. -/
theorem readStatusReportsThePart : Obligations.ReadStatusReportsThePart := by
  unfold Obligations.ReadStatusReportsThePart
  intro st tag s hpolled hload
  refine ⟨?_, answered_sameTables (goodReply_sameTables st s) ..⟩
  rw [exec_readStatus hpolled, statusView_goodReply, hload.reportedVersion]
  simp only [statusView, slotCount, liveReservations, demoReservations, throwsInMotion]

end Sys2Proof.Machine
end

section
/-! READ STORE (R179), which is taken in READY and NO_IMAGE (R165). -/

namespace Sys2Proof.Machine

/-! ### A request that is not taken in LOADING (R161, R162, R165) -/

theorem taken_notLoading {st : StationId} {s : State} (h : Polled st s) (hload : s.loadState ≠ .loading) (tag code : Byte)
    (f : State → Handled) :
    unlessHeld (takeRequest st tag code (whenNotLoading f)) s
      = answered st tag code (f (goodReply st s)).1.result (f (goodReply st s)).1.detail (f (goodReply st s)).2 := by
  have htaken : whenNotLoading f (goodReply st s) = f (goodReply st s) :=
    if_neg (by rwa [goodReply_loadState])
  rw [← htaken]
  exact taken_of_polled h tag code (whenNotLoading f)

theorem refused_loading {st : StationId} {s : State} (h : Polled st s) (hload : s.loadState = .loading) (tag code : Byte)
    (f : State → Handled) :
    unlessHeld (takeRequest st tag code (whenNotLoading f)) s
      = answered st tag code .notReady (.loadState .loading) (goodReply st s) := by
  have hloading : (goodReply st s).loadState = .loading := by rwa [goodReply_loadState]
  have hrefused : whenNotLoading f (goodReply st s) = (⟨.notReady, .loadState .loading⟩, goodReply st s) := by
    rw [whenNotLoading, if_pos hloading, notReady, hloading, unchanged]
  have htaken := taken_of_polled h tag code (whenNotLoading f)
  rw [hrefused] at htaken
  exact htaken

/-! ### What a good reply leaves of the store and the slots -/

@[simp] theorem goodReply_store (st : StationId) (s : State) : (goodReply st s).store = s.store := by
  rw [goodReply_eq]

@[simp] theorem goodReply_write (st : StationId) (s : State) : (goodReply st s).write = s.write := by
  rw [goodReply_eq]

@[simp] theorem goodReply_slots (st : StationId) (s : State) : (goodReply st s).slots = s.slots := by
  rw [goodReply_eq]

/-! ### The range that a READ STORE names (R179, check 3) -/

/-- The length is outside 1-64, the last byte lies beyond 0xFFFF, or the slot is outside 0-511. -/
def ReadOutOfRange : StoreRead → Prop
  | .bytes a len => len < 1 ∨ 64 < len ∨ 0xFFFF < a + len - 1
  | .slot n => 512 ≤ n

theorem readRange_outOfRange {what : StoreRead} (h : ReadOutOfRange what) : readRange what = none := by
  cases what with
  | bytes a len =>
    refine if_neg fun ⟨hmin, hmax, hlast⟩ => ?_
    simp only [ReadOutOfRange] at h
    simp only [storeSize] at hlast
    omega
  | slot n => rw [readRange, toId_of_le h, Option.map_none]

theorem readRange_bytes {a len : Nat} (h : ¬ ReadOutOfRange (.bytes a len)) :
    readRange (.bytes a len) = some (a, len, none) := by
  simp only [ReadOutOfRange] at h
  refine if_pos ⟨?_, ?_, ?_⟩
  · omega
  · omega
  · simp only [storeSize]
    omega

theorem readRange_slot (n : SlotId) : readRange (.slot n.val) = some (slotAddress n, pageSize, some n) := by
  rw [readRange, toId_val, Option.map_some]

theorem readRange_isSome {what : StoreRead} (h : ¬ ReadOutOfRange what) : ∃ x, readRange what = some x := by
  cases what with
  | bytes a len => exact ⟨_, readRange_bytes h⟩
  | slot n => exact ⟨_, readRange_slot ⟨n, Nat.lt_of_not_le h⟩⟩

/-! ### The reply of READ STORE, by its checks in their order (R179) -/

theorem handleReadStore_unchanged (st : StationId) (what : StoreRead) (acked : Bool) (s : State) :
    (handleReadStore st what acked s).2 = s := by
  unfold handleReadStore
  split
  · rfl
  · split
    · rfl
    · split
      · rfl
      · split <;> rfl

theorem handleReadStore_notSupervisor {st : StationId} (h : st ≠ supervisor) (what : StoreRead) (acked : Bool) (s : State) :
    (handleReadStore st what acked s).1 = ⟨.notPermitted, .nothing⟩ := by
  simp [handleReadStore, h, unchanged, plain]

theorem handleReadStore_outOfRange {what : StoreRead} (h : ReadOutOfRange what) (acked : Bool) (s : State) :
    (handleReadStore supervisor what acked s).1 = ⟨.badRequest, .nothing⟩ := by
  simp [handleReadStore, readRange_outOfRange h, unchanged, plain]

theorem handleReadStore_writing {what : StoreRead} {s : State} (h : ¬ ReadOutOfRange what) (hwrite : s.write.isSome = true)
    (acked : Bool) : (handleReadStore supervisor what acked s).1 = ⟨.busy, .nothing⟩ := by
  obtain ⟨x, hrange⟩ := readRange_isSome h
  simp [handleReadStore, hrange, hwrite, unchanged, plain]

theorem handleReadStore_notAcked {what : StoreRead} {s : State} (h : ¬ ReadOutOfRange what) (hwrite : s.write = none) :
    (handleReadStore supervisor what false s).1 = ⟨.itemFailed, .item .store⟩ := by
  obtain ⟨x, hrange⟩ := readRange_isSome h
  simp [handleReadStore, hrange, hwrite, unchanged, naming]

theorem handleReadStore_bytes {a len : Nat} {s : State} (h : ¬ ReadOutOfRange (.bytes a len))
    (hwrite : s.write = none) :
    (handleReadStore supervisor (.bytes a len) true s).1 = ⟨.done, .bytes (memReads s.store a len)⟩ := by
  simp [handleReadStore, readRange_bytes h, hwrite, unchanged]

theorem handleReadStore_slot {s : State} (n : SlotId) (hwrite : s.write = none) :
    (handleReadStore supervisor (.slot n.val) true s).1
      = ⟨.done, .slotBytes (memReads s.store (slotAddress n) pageSize) (tget s.slots n).status⟩ := by
  simp [handleReadStore, readRange_slot, hwrite, unchanged]

/-! ### The command (R165, R179) -/

theorem exec_readStore_loading {st : StationId} {s : State} (h : Polled st s) (hload : s.loadState = .loading) (tag : Byte)
    (what : StoreRead) (acked : Bool) : exec (.readStore st tag what acked) s
      = .next (answered st tag 0x63 .notReady (.loadState .loading) (goodReply st s)) :=
  congrArg _ (refused_loading h hload tag codeReadStore (handleReadStore st what acked))

theorem exec_readStore {st : StationId} {s : State} (h : Polled st s) (hload : s.loadState ≠ .loading) (tag : Byte)
    (what : StoreRead) (acked : Bool) : exec (.readStore st tag what acked) s
      = .next (answered st tag 0x63 (handleReadStore st what acked (goodReply st s)).1.result
        (handleReadStore st what acked (goodReply st s)).1.detail (goodReply st s)) := by
  have hexec := taken_notLoading h hload tag codeReadStore (handleReadStore st what acked)
  rw [handleReadStore_unchanged] at hexec
  exact congrArg _ hexec

theorem exec_readStore_sameTables {st : StationId} {s t : State} (h : Polled st s) {tag : Byte} {what : StoreRead}
    {acked : Bool} (ht : exec (.readStore st tag what acked) s = .next t) : SameTables s t := by
  by_cases hload : s.loadState = .loading
  · rw [exec_readStore_loading h hload] at ht
    cases ht
    exact answered_sameTables (goodReply_sameTables st s) ..
  · rw [exec_readStore h hload] at ht
    cases ht
    exact answered_sameTables (goodReply_sameTables st s) ..

/-- With no image every slot is shown as not loaded (R179), and the route table holds it so. -/
theorem LoadSound.shownStatus {s : State} (h : LoadSound s) (n : SlotId) :
    (if s.loadState = .noImage then .absent .notLoaded else (tget s.slots n).status) = (tget s.slots n).status := by
  split
  · next hnone => rw [h.empty (.inr (.inr hnone)) n]
  · rfl

/-- Settles O16: in LOADING the request is refused, and otherwise it is answered with the reply of its handler, whose
cases are its checks in their order and the two reports. -/
theorem readStoreReportsTheBytes : Obligations.ReadStoreReportsTheBytes := by
  unfold Obligations.ReadStoreReportsTheBytes
  intro st tag what acked s h hsound c answer bad
  have hgoodWrite : s.write = none → (goodReply st s).write = none := (goodReply_write st s).trans
  refine ⟨fun hload => exec_readStore_loading h hload tag what acked, fun hload hst => ?_, fun hload hst => ?_,
    fun t ht => exec_readStore_sameTables h ht⟩
  · simp only [answer, c]
    rw [exec_readStore h hload, handleReadStore_notSupervisor hst]
  · simp only [answer, c]
    rw [exec_readStore h hload]
    subst hst
    refine ⟨fun hbad => ?_, fun hbad hwrite => ?_, fun hbad hwrite hacked => ?_, fun hbad hwrite hacked =>
      ⟨fun a len hwhat => ?_, fun n hwhat => ?_⟩⟩
    · rw [handleReadStore_outOfRange hbad]
    · rw [handleReadStore_writing hbad ((congrArg _ (goodReply_write supervisor s)).trans hwrite)]
    · subst hacked
      rw [handleReadStore_notAcked hbad (hgoodWrite hwrite)]
    · subst hacked hwhat
      rw [handleReadStore_bytes hbad (hgoodWrite hwrite), goodReply_store]
    · subst hacked hwhat
      rw [handleReadStore_slot n (hgoodWrite hwrite), goodReply_store, goodReply_slots, hsound.shownStatus]
      rfl

end Sys2Proof.Machine
end
